-- ==== Sys2Proof/Word.lean ====
section
/-! DEFINITION. The word types of the CL24 and a table of fixed size. -/

namespace Sys2Proof

/-- A byte of the window, of the transfer buffer or of keep memory. -/
abbrev Byte := BitVec 8

/-- A two-byte field. -/
abbrev Half := BitVec 16

/-- Exactly `n` things of one kind: voices, event slots, wave tables, patterns, window areas. -/
structure Table (α : Type) (n : Nat) where
  items : List α
  size : items.length = n
deriving DecidableEq, Repr

/-- The table that holds `a` at every place. -/
def Table.fill {α : Type} (n : Nat) (a : α) : Table α n :=
  ⟨List.replicate n a, List.length_replicate⟩

/-- The item at place `i`. -/
def Table.get {α : Type} {n : Nat} (t : Table α n) (i : Fin n) : α :=
  t.items[i.val]'(t.size.symm ▸ i.isLt)

/-- The table with place `i` holding `a`. -/
def Table.set {α : Type} {n : Nat} (t : Table α n) (i : Fin n) (a : α) : Table α n :=
  ⟨t.items.set i.val a, by simp [t.size]⟩

/-- The table with `f` applied at every place. -/
def Table.map {α β : Type} {n : Nat} (f : α → β) (t : Table α n) : Table β n :=
  ⟨t.items.map f, by simp [t.size]⟩

/-- The table whose place `i` holds `f i`. -/
def Table.tabulate {α : Type} (n : Nat) (f : Fin n → α) : Table α n :=
  ⟨(List.finRange n).map f, by simp⟩

end Sys2Proof
end

