-- ==== Sys2Proof/Syntax.lean ====
section
/-! DEFINITION. The commands: one constructor for each row of spec/opcode_table.json, in the table's order, with the
row's operands as the window's bytes carry them (a request's operands, R185) or as the world gives them (a reading, an
instant). A request constructor is the writing of that request's code and operands and its submit (log 1). -/

namespace Sys2Proof

/-- An instant on the audio link's time base, in units of 1/512 microsecond (log 11). -/
abbrev Instant := Nat

/-- One counter specification of CREATE: floor, ceiling and initial value, signed (chapter 1, CREATE). -/
structure CounterSpec where
  floor : Half
  ceiling : Half
  initial : Half
deriving DecidableEq, Repr

/-- The eight bytes of a note entry (11.4, Note entry). -/
structure NoteBytes where
  timbre : Byte
  pitch : Half
  length : Byte
  envelope : Byte
  pan : Byte
  marker : Byte
  cue : Byte
deriving DecidableEq, Repr

/-- The action of an arming request as its operand bytes carry it (R82). -/
structure ActionBytes where
  action : Byte
  key : Half
  index : Byte
  step : Byte
deriving DecidableEq, Repr

/-- One supply reading: console supply and cell, 0 to 4,095 mV each (R175). -/
structure Reading where
  console : BitVec 12
  cell : BitVec 12
deriving DecidableEq, Repr

/-- What a fall of the keep supply left of one tended counter (R43, R180; log 15). -/
structure CounterFault where
  value : Half
  floor : Half
  ceiling : Half
deriving DecidableEq, Repr

/-- What a fall of the keep supply left of the catalog entry of a key, every field but the key (R4, R180; log 15). -/
structure CatalogFault where
  key : Half
  length : Half
  blocks : List (Fin 1024)
  generation : Half
  check : Half
  damage : Bool
  audited : Bool
  counters : List CounterFault
deriving DecidableEq, Repr

/-- What a fall of the keep supply did not hold (chapter 1.1, R180; log 15). -/
inductive RetentionFault where
  /-- The byte of keep memory at `address` has become `value`. -/
  | byte (address : Half) (value : Byte)
  /-- A catalog entry has changed. -/
  | entry (fault : CatalogFault)
deriving DecidableEq, Repr

/-- The commands of the CL24. -/
inductive Instr where
  /-- R187 -/
  | identify
  /-- R188 -/
  | readStatus
  /-- R192 -/
  | readNotices
  /-- R193 -/
  | ackNotice (mask : Byte)
  /-- R191 -/
  | setNoticeMask (mask : Byte)
  /-- R181 -/
  | quiesce
  /-- R189; `now` is the instant of the step on the link's time base, which R150 judges -/
  | softReset (now : Instant)
  /-- R185: a submit whose code names no request -/
  | unknown (code : Byte)
  /-- R185: a write to offset 0 while the window is BUSY -/
  | overrun
  /-- R184: a write to offsets 1 to 127 -/
  | windowWrite (offset : BitVec 7) (value : Byte)
  /-- R7 -/
  | create (key length : Half) (fill count : Byte) (spec0 spec1 spec2 spec3 : CounterSpec)
  /-- R8 -/
  | entryStep
  /-- R11 -/
  | info (key : Half)
  /-- R12 -/
  | list (after : Half)
  /-- R14 -/
  | retire (key : Half)
  /-- R15 -/
  | retireAnswer
  /-- R13 -/
  | storeSpace
  /-- R20 -/
  | openChange (key newLength : Half) (copyIn : Byte)
  /-- R21 -/
  | openChangeEntry
  /-- R23 -/
  | writePiece (key offset : Half) (count : Byte)
  /-- R24 -/
  | readPiece (key offset : Half) (count source : Byte)
  /-- R34 -/
  | verification
  /-- R28 -/
  | closeChange (key : Half)
  /-- R30 -/
  | closeAll
  /-- R29 -/
  | swapStage
  /-- R33 -/
  | abandonChange (key : Half)
  /-- R37 -/
  | auditStep
  /-- R47 -/
  | readCounter (key : Half) (index : Byte)
  /-- R48 -/
  | adjustCounter (key : Half) (index : Byte) (delta : Half)
  /-- R49 -/
  | setCounter (key : Half) (index : Byte) (value : Half)
  /-- R50 -/
  | swapCounter (key : Half) (index : Byte) (expected new : Half)
  /-- R51 -/
  | setBounds (key : Half) (index : Byte) (floor ceiling : Half)
  /-- R53 -/
  | tendAction
  /-- R97 -/
  | tendAnswer
  /-- R70 -/
  | readClock
  /-- R73 -/
  | setWall (year : Half) (month day hour minute second : Byte)
  /-- R77 -/
  | setDayTurn (turn : Half)
  /-- R58 -/
  | secondEvent
  /-- R58; `reading` is the reading R175 has the supply watch take while the main domain is OFF -/
  | minuteEvent (reading : Reading)
  /-- R84 -/
  | armElapsed (tag : Half) (first interval : BitVec 24) (action : ActionBytes)
  /-- R85 -/
  | armDaily (tag : Half) (period first : Byte) (action : ActionBytes)
  /-- R86 -/
  | armWall (tag : Half) (due : BitVec 32) (action : ActionBytes)
  /-- R88 -/
  | findEvent (tag : Half)
  /-- R89 -/
  | eventInfo (slot : Byte)
  /-- R90 -/
  | cancelEvent (slot : Byte)
  /-- R101 -/
  | readDue (start : Byte)
  /-- R102 -/
  | ackDue (slot count : Byte)
  /-- R104 -/
  | setDueThreshold (threshold : Byte)
  /-- R132 -/
  | loadWave (table : Byte)
  /-- R114 -/
  | setVoice (voice group conditioning refill : Byte)
  /-- R109 -/
  | queueNotes (voice count : Byte) (note1 note2 note3 : NoteBytes)
  /-- R111 -/
  | startVoices (mask : Byte)
  /-- R112 -/
  | holdVoices (mask : Byte)
  /-- R112 -/
  | releaseVoices (mask : Byte)
  /-- R113 -/
  | stopVoices (mask : Byte)
  /-- R137 -/
  | setMaster (volume : Byte)
  /-- R123 -/
  | readVoices
  /-- R121 -/
  | readMarkers
  /-- R151; `now` is the instant of the step on the link's time base, which R150 judges -/
  | setLink (mode format offset : Byte) (now : Instant)
  /-- R152 -/
  | readLink
  /-- R156 -/
  | loadPattern (pattern count repeats : Byte)
  /-- R160 -/
  | playPattern (pattern priority : Byte)
  /-- R169 -/
  | stopRumble
  /-- R170 -/
  | setRumble (strength kick : Byte)
  /-- R171 -/
  | readRumble
  /-- R183 -/
  | readPower
  /-- R122 -/
  | cue
  /-- R143 -/
  | frameInstant
  /-- R146; `arrival` is the instant of the strobe on the link's time base -/
  | fsiStrobe (arrival : Instant)
  /-- R148 -/
  | substitution
  /-- R115 -/
  | soundTick
  /-- R138 -/
  | fadeComplete
  /-- R161 -/
  | rumbleUnit
  /-- R175 -/
  | supplyReading (reading : Reading)
  /-- R175; `reading` is the reading the wake event takes -/
  | wakeEvent (reading : Reading)
  /-- R178 -/
  | consoleReset
  /-- R178 -/
  | consoleResetRelease
  /-- R180; `faults` is what the fall did not hold (log 15) -/
  | retentionDoubtful (faults : List RetentionFault)
  /-- R180 -/
  | keepDomainStop
  /-- R180 -/
  | cellReset
deriving DecidableEq, Repr

end Sys2Proof
end

