-- ==== Sys2Proof/WellFormed.lean ====
section
/-! DEFINITION. Which commands are well formed. A request may carry any operand bytes (the part answers RANGE), so the
checks concern only what a row's own words exclude. -/

namespace Sys2Proof

/-- The command codes that name a request (11.4, Command codes). -/
def requestCodes : List Byte :=
  [1, 2, 3, 4, 5, 6, 7] ++
  [16, 17, 18, 19, 20, 21, 22, 23, 24, 25, 26] ++
  [32, 33, 34, 35, 36] ++
  [48, 49, 50] ++
  [52, 53, 54, 55, 56, 57, 58, 59, 60] ++
  [64, 65, 66, 67, 68, 69, 70, 71, 72, 73] ++
  [80, 81] ++ [96, 97, 98, 99, 100] ++ [112]

/-- UNKNOWN is a submit whose code names no request (R185); WINDOW_WRITE writes offsets 1 to 127 (R184), offset 0
being a submit. Every other command is well formed whatever its operands. -/
def Instr.wellFormed : Instr → Bool
  | .unknown code => !requestCodes.contains code
  | .windowWrite offset _ => offset != 0
  | .identify | .readStatus | .readNotices | .ackNotice _ | .setNoticeMask _ | .quiesce | .softReset _ | .overrun => true
  | .create .. | .entryStep | .info _ | .list _ | .retire _ | .retireAnswer | .storeSpace => true
  | .openChange .. | .openChangeEntry | .writePiece .. | .readPiece .. | .verification => true
  | .closeChange _ | .closeAll | .swapStage | .abandonChange _ | .auditStep => true
  | .readCounter .. | .adjustCounter .. | .setCounter .. | .swapCounter .. | .setBounds .. => true
  | .tendAction | .tendAnswer => true
  | .readClock | .setWall .. | .setDayTurn _ | .secondEvent | .minuteEvent _ => true
  | .armElapsed .. | .armDaily .. | .armWall .. | .findEvent _ | .eventInfo _ | .cancelEvent _ => true
  | .readDue _ | .ackDue .. | .setDueThreshold _ => true
  | .loadWave _ | .setVoice .. | .queueNotes .. | .startVoices _ | .holdVoices _ | .releaseVoices _ => true
  | .stopVoices _ | .setMaster _ | .readVoices | .readMarkers => true
  | .setLink .. | .readLink => true
  | .loadPattern .. | .playPattern .. | .stopRumble | .setRumble .. | .readRumble | .readPower => true
  | .cue | .frameInstant | .fsiStrobe _ | .substitution | .soundTick | .fadeComplete | .rumbleUnit => true
  | .supplyReading _ | .wakeEvent _ | .consoleReset | .consoleResetRelease => true
  | .retentionDoubtful _ | .keepDomainStop | .cellReset => true

end Sys2Proof
end

