-- ==== Sys2Proof/Decode.lean ====
section
/-! DEFINITION. The opcode table gives no row any bits ("fixed" and "fields" are absent from all 80 rows), so no word
spells a command. The bytes by which a request reaches the part are Instr.requestBytes (Machine/Operands.lean). -/

namespace Sys2Proof

/-- The command a word spells by the table's bits: none, since no row of the table gives bits. -/
def decodeTableWord (_nbits _w : Nat) : Option Instr := none

end Sys2Proof
end

