-- ==== Sys2Proof/Config.lean ====
section
/-! DEFINITION. What the manual fixes for the part (capacities, levels, windows, codes of identity) and the free values
it leaves open. -/

namespace Sys2Proof.Config

/-! ### Record store (chapter 1) -/

/-- Bytes in a block (R1). -/
def blockSize : Nat := 64
/-- Most entries in the catalog (R3). -/
def catalogCapacity : Nat := 96
/-- Most open changes (R3). -/
def openCapacity : Nat := 4
/-- Longest record, in bytes (R4). -/
def maxLength : Nat := 1024
/-- Most tended counters of one record (R4). -/
def counterCapacity : Nat := 4
/-- Most bytes of one piece, and the size of the transfer buffer (R23, R24). -/
def pieceMax : Nat := 64
/-- What a byte of keep memory that nothing has written reads as.
DESIGN CHOICE (log 6), unsafe: the manual gives keep memory no contents after a cell reset. -/
def unwrittenByte : Byte := 0

/-! ### Calendar and events (chapters 4 and 5) -/

/-- The largest true second (R58). -/
def maxSecond : Nat := 4294967295
/-- The top of the wall range, 2099-12-31 23:59:59 (R60). -/
def topWall : Nat := 3155759999
/-- Seconds of a day (R63). -/
def daySeconds : Nat := 86400
/-- Most occurrences held pending for one event (R96). -/
def pendingMax : Nat := 255

/-! ### Sound (chapters 6 and 7) -/

/-- Most note entries in a queue (R107). -/
def queueCapacity : Nat := 16
/-- Most markers on the marker list (R120). -/
def markerCapacity : Nat := 8
/-- Largest pitch step (R108). -/
def maxPitch : Nat := 16383
/-- Largest master volume (R137). -/
def maxMaster : Nat := 31
/-- Master volume after a main reset (R142). -/
def resetMaster : Nat := 16
/-- Largest clipped-frame count (R140). -/
def maxClipped : Nat := 65535

/-! ### Audio link (chapter 8). Instants are counted in units of 1/512 microsecond, in which every window of the
chapter and the nominal period of 1/32,768 second are whole (log 11). -/

/-- The nominal frame period, 1/32,768 second. -/
def period : Nat := 15625
/-- 30.0 microseconds: a strobe below it is bad (R146). -/
def goodFrom : Nat := 15360
/-- 31.0 microseconds: a strobe above it is late (R146). -/
def goodTo : Nat := 15872
/-- 32.0 microseconds: the substitution deadline (R148). -/
def deadline : Nat := 16384
/-- 15.0 microseconds: the least time between two frame instants (R150). -/
def apart : Nat := 7680
/-- Good strobes in a row that give SLAVE (R149). -/
def goodRunFull : Nat := 16
/-- Substitutions in a row that lose the console (R148). -/
def substitutionFull : Nat := 4
/-- Largest slip count (R148). -/
def maxSlips : Nat := 255

/-! ### Rumble (chapter 9) -/

/-- Most requests waiting (R159). -/
def waitingCapacity : Nat := 4
/-- Most steps of a pattern (R155). -/
def stepCapacity : Nat := 32
/-- The repeat that makes a pattern endless (R155). -/
def endlessRepeat : Nat := 15
/-- Largest dropped-cue count (R159). -/
def maxDropped : Nat := 255

/-! ### Supplies, in millivolts (R165, R168, R175 to R180) -/

def ceilingFull : Nat := 3300
def ceilingZero : Nat := 3000
def resumeLevel : Nat := 3050
def haltLevel : Nat := 2950
def startLevel : Nat := 2900
def goingLevel : Nat := 2700
def cellClearLevel : Nat := 2300
def cellLowLevel : Nat := 2200

/-! ### Identity (R187) -/

def vendorCode : Half := 0x5D1A
def partCode : Half := 0x0C24
def revision : Byte := 1

/-! ### Free values -/

/-- What READ-RUMBLE answers, at its `draw`-th use, for field `field` of a current request that does not exist
(R171 states only the pattern, 255). Nothing constrains it (log 13). -/
opaque absentRequestField : (draw : Nat) → (field : Nat) → Byte

/-- The step position READ-RUMBLE answers, at its `draw`-th use, for a current request not yet started: R157 gives its
range, and R161 its value only from the start on. Nothing constrains it within that range (log 13). -/
opaque unstartedPosition : (draw : Nat) → Fin 32

/-- The units left, less 1, READ-RUMBLE answers, at its `draw`-th use, for a current request not yet started (R157, R161;
log 13). -/
opaque unstartedUnits : (draw : Nat) → Fin 255

/-- The code of the plays left READ-RUMBLE answers, at its `draw`-th use, for a current request not yet started (R157,
R161; log 13). -/
opaque unstartedPlays : (draw : Nat) → Fin 16

/-- Whether, at its `draw`-th use, the audio link takes its part of a SOFT-RESET before the sound engine does
(R189: "in any order"). It shows only where R150 has the link make a frame instant at that step. Nothing constrains
it (log 14). -/
opaque softResetLinkFirst : (draw : Nat) → Bool

end Sys2Proof.Config
end

