-- ==== Sys2Proof/Machine/State.lean ====
section
/-! DEFINITION. The state of the CL24: every register, buffer, table, queue, mark and count the manual names, block by
block, as plain data, and the state right after a cell reset. A condition the manual defines from other state (the state
of a memory block, LIVE and OPEN, the window state, the rumble state, the duty, the level causes, the notice line) is
held once and computed where it is read (log 8). -/

namespace Sys2Proof.Machine

/-! ### Calendar (chapter 4) -/

/-- The calendar state (R59). -/
inductive CalendarState where
  | unset
  | set
deriving DecidableEq, Repr

/-- The six items of the calendar (chapter 4), and what it has handed on at minute events. -/
structure Calendar where
  /-- True second T (R58). -/
  trueSecond : Nat
  /-- Second events since the last minute event, 0 to 59 (R58). -/
  minutePhase : Nat
  state : CalendarState
  /-- Wall offset W (R60). -/
  wallOffset : Int
  /-- Day turn D (R65). -/
  dayTurn : Nat
  endMark : Bool
  /-- Minute events made by second events and not yet taken (R58; log 10). -/
  minutesHanded : Nat
  /-- A wake event has taken the reading of the minute event now handed on (R175; log 17). -/
  minuteReadingTaken : Bool
deriving DecidableEq, Repr

/-! ### Event engine (chapter 5) -/

/-- A slot number of the event table (R80). -/
abbrev Slot := Fin 48

/-- The schedule of an event: the fields of its own kind only (R80). -/
inductive Schedule where
  /-- ELAPSED: next-due second N and interval I. -/
  | elapsed (next interval : Nat)
  /-- DAILY: anchor a, period k and last-served day L. -/
  | daily (anchor : Int) (period : Nat) (lastServed : Int)
  /-- WALL-ONCE: the due wall second. -/
  | wallOnce (due : Nat)
deriving DecidableEq, Repr

/-- What an event does besides joining the due list (R80). -/
inductive Action where
  | notify
  | tend (key index : Nat) (step : Int)
deriving DecidableEq, Repr

/-- The state of an event that is not FREE (R81). -/
inductive EventState where
  | armed
  | due
deriving DecidableEq, Repr

/-- An event record (R80). -/
structure Event where
  tag : Nat
  state : EventState
  schedule : Schedule
  finished : Bool
  pendingCount : Nat
  firstDue : Nat
  action : Action
  targetLost : Bool
deriving DecidableEq, Repr

/-- A tend action in flight to the record store (R97). -/
structure TendAction where
  slot : Slot
  tag : Nat
  key : Nat
  index : Nat
  amount : Int
deriving DecidableEq, Repr

/-- The store's answer to a tend action: "applied" with the resulting value, or "absent" (R53, R54). -/
inductive TendResult where
  | applied (value : Int)
  | absent
deriving DecidableEq, Repr

/-- A tend answer in flight back to the engine, with the action's slot, tag and key (R97). -/
structure TendAnswer where
  slot : Slot
  tag : Nat
  key : Nat
  result : TendResult
deriving DecidableEq, Repr

/-- The event engine. A slot that holds `none` is FREE (R80). -/
structure Engine where
  slots : Table (Option Event) 48
  /-- The due list, head first (R100). -/
  dueList : List Slot
  /-- The due threshold, 1 to 48 (R104). -/
  threshold : Nat
  /-- Tend actions sent and not yet taken, oldest first (R97). -/
  tends : List TendAction
  /-- Tend answers given and not yet taken, oldest first (R97). -/
  answers : List TendAnswer
deriving DecidableEq, Repr

/-! ### Record store (chapters 1 to 3) -/

/-- A block number of keep memory (R1). -/
abbrev Block := Fin 1024

/-- Keep memory: address and byte pairs, addresses rising, no entry equal to the unwritten byte (log 6). -/
abbrev Memory := List Host.Cell

/-- A tended counter (R43). -/
structure Counter where
  value : Int
  floor : Int
  ceiling : Int
deriving DecidableEq, Repr

/-- The shadow of an open change (R4, R19). -/
structure Shadow where
  newLength : Nat
  blocks : List Block
  copyIn : Bool
deriving DecidableEq, Repr

/-- A catalog entry (R4). It is OPEN while it has a shadow, LIVE otherwise. -/
structure Entry where
  key : Nat
  length : Nat
  blocks : List Block
  generation : Nat
  check : Half
  damage : Bool
  audited : Bool
  counters : List Counter
  shadow : Option Shadow
deriving DecidableEq, Repr

/-- The record store. -/
structure Store where
  memory : Memory
  /-- The catalog, in ascending key order (R3). -/
  catalog : List Entry
  /-- The changes-lost-at-power-loss mark, 0 to 4 (R41). -/
  changesLost : Nat
  /-- The keep-lost mark (R17). -/
  keepLost : Bool
  /-- Set while the audit is in progress (R37). -/
  auditFlag : Bool
  /-- The audit position (R37). -/
  auditPosition : Nat
deriving DecidableEq, Repr

/-! ### Power control and supply watch (chapter 10) -/

/-- The main domain state (R174). -/
inductive MainState where
  | off
  | run
  | doze
deriving DecidableEq, Repr

/-- Power control and the supply watch, held in the keep domain (R174, R175). -/
structure Power where
  main : MainState
  /-- The keep domain runs; clear from a fall below 1,500 mV until the cell reset (R180). -/
  keepRuns : Bool
  /-- The latest reading (R175). -/
  reading : Reading
  /-- The cell-low mark (R179). -/
  cellLow : Bool
  /-- The retention-doubtful mark (R180). -/
  retentionDoubtful : Bool
  /-- The first millisecond reading after the main reset is still to come (R179). -/
  firstReading : Bool
  /-- nCRST is held asserted (R178). -/
  resetHeld : Bool
deriving DecidableEq, Repr

/-! ### Command window (chapter 11) -/

/-- The request in hand, with the work its stages have done so far (log 7). -/
inductive Work where
  /-- CREATE past its checks: its blocks are selected and filled and its check computed (R8). -/
  | create (key length : Nat) (blocks : List Block) (check : Half) (counters : List Counter)
  /-- OPEN-CHANGE in its verification stage (R21). -/
  | openVerify (key newLength : Nat) (copyIn : Bool)
  /-- OPEN-CHANGE with its shadow blocks selected and filled (R21). -/
  | openFill (key newLength : Nat) (copyIn : Bool) (blocks : List Block)
  /-- READ-PIECE of committed contents, verifying first (R26). -/
  | readVerify (key offset count : Nat)
  /-- CLOSE-CHANGE with the check it has computed (R28). -/
  | close (key : Nat) (check : Half)
  /-- CLOSE-ALL with the checks it has computed, in key order (R30). -/
  | closeAll (checks : List (Nat × Half))
  /-- RETIRE past its step, with the number of blocks it freed (R15). -/
  | retire (key freed : Nat)
  /-- QUIESCE in its fade (R181). -/
  | quiesce
deriving DecidableEq, Repr

/-- The command window. -/
structure Window where
  /-- Offsets 1 to 31. -/
  request : Table Byte 31
  /-- Offsets 32 to 63. -/
  answer : Table Byte 32
  /-- Offsets 64 to 127, the transfer buffer. -/
  buffer : Table Byte 64
  /-- The request in hand; the window is BUSY while there is one (R184). -/
  work : Option Work
  /-- An answer has been placed since the main reset: DONE, when no request is in hand (R184). -/
  answered : Bool
  overrun : Bool
deriving DecidableEq, Repr

/-! ### Notice unit (chapter 11) -/

structure PowerCause where
  pending : Bool
  halted : Bool
  resumed : Bool
  cellLow : Bool
deriving DecidableEq, Repr

structure KeepCause where
  pending : Bool
  damageFound : Bool
  keepLost : Bool
  changesLost : Bool
  retentionDoubtful : Bool
deriving DecidableEq, Repr

structure LinkCause where
  pending : Bool
  lost : Bool
  regained : Bool
deriving DecidableEq, Repr

structure StarvedCause where
  pending : Bool
  voices : Byte
deriving DecidableEq, Repr

structure RumbleCause where
  pending : Bool
  done : Bool
deriving DecidableEq, Repr

/-- The notice unit: the enable mask and the edge causes with their details (R190). The level causes are their owners'
conditions. -/
structure Notices where
  enable : Byte
  power : PowerCause
  keep : KeepCause
  link : LinkCause
  starved : StarvedCause
  rumble : RumbleCause
deriving DecidableEq, Repr

/-! ### Sound engine (chapters 6 and 7) -/

/-- A voice number (R106). -/
abbrev VoiceNo := Fin 8

/-- The timbres (R108). -/
inductive Timbre where
  | square12
  | square25
  | square50
  | square75
  | noiseLong
  | noiseShort
  | rest
  | wave (table : Fin 8)
deriving DecidableEq, Repr

/-- A rumble cue of a note, and an offer of it to the driver (R108, R122). -/
structure Cue where
  pattern : Fin 16
  priority : Fin 4
deriving DecidableEq, Repr

/-- A note entry as queued (R108). -/
structure Note where
  timbre : Timbre
  /-- 0 to 16383, clamped on joining the queue. -/
  pitch : Half
  /-- In sound ticks; 0 is an open note. -/
  length : Nat
  startVolume : Fin 16
  envelopeUp : Bool
  pace : Fin 8
  left : Fin 4
  right : Fin 4
  /-- A marker id, 1 to 255, or none. -/
  marker : Option Byte
  cue : Option Cue
deriving DecidableEq, Repr

/-- The state a HELD voice returns to (R106). -/
inductive PriorState where
  | playing
  | starved
deriving DecidableEq, Repr

/-- The state of a voice, with the prior state while HELD (R106, R107). -/
inductive VoiceState where
  | idle
  | playing
  | starved
  | held (prior : PriorState)
deriving DecidableEq, Repr

inductive Group where
  | a
  | b
deriving DecidableEq, Repr

inductive Conditioning where
  | silence
  | hold
deriving DecidableEq, Repr

/-- A voice (R106). -/
structure Voice where
  state : VoiceState
  /-- Oldest first. -/
  queue : List Note
  current : Option Note
  spent : Bool
  lengthCounter : Nat
  paceCounter : Nat
  volume : Fin 16
  phase : Half
  noise : BitVec 15
  startMark : Bool
  group : Group
  conditioning : Conditioning
  /-- 0, 4, 8 or 12. -/
  refill : Nat
deriving DecidableEq, Repr

/-- A wave table (R131). -/
abbrev Wave := Table (Fin 16) 32

/-- The sound engine. -/
structure Sound where
  voices : Table Voice 8
  waves : Table Wave 8
  /-- The marker list, oldest first (R120). -/
  markers : List Byte
  dropped : Bool
  /-- Master volume m (R137). -/
  master : Nat
  /-- The saved master, from the start of a fade until the wake (R138). -/
  savedMaster : Option Nat
  clipped : Nat
  /-- The link has made a frame event that is a sound tick, which the engine has not yet taken (R144; log 9). -/
  tickHanded : Bool
  /-- Cues offered and not yet taken by the driver, oldest first (R122; log 10). -/
  cues : List Cue
deriving DecidableEq, Repr

/-! ### Audio link (chapter 8) -/

inductive LinkMode where
  | follow
  | own
deriving DecidableEq, Repr

inductive LinkState where
  | seeking
  | slave
  | master
deriving DecidableEq, Repr

inductive SlotFormat where
  | pair
  | split
deriving DecidableEq, Repr

/-- The four slot values of a frame (R139). -/
abbrev Frame := Table Int 4

/-- The audio link. -/
structure Link where
  mode : LinkMode
  state : LinkState
  format : SlotFormat
  offset : Fin 4
  slips : Nat
  goodRun : Nat
  substitutionRun : Nat
  reference : Option Instant
  tickPhase : Nat
  unitPhase : Nat
  /-- Where the own timing makes its next frame instant, in SEEKING and MASTER (R143, R150; log 11). -/
  ownNext : Instant
  /-- The last frame instant of the own timing (R150). -/
  ownLast : Option Instant
  /-- Rumble units handed to the driver and not yet taken (R144; log 10). -/
  unitsHanded : Nat
  /-- The frame last sent on ASD: the two's-complement word of each position (R145). -/
  sent : Table Half 4
  /-- Frames marked on FSO since the main reset: the model's own count (log 25). -/
  framesSent : Nat
  /-- After power-going, while the failing supply still holds the outputs (R154; log 20). -/
  outputsHold : Bool
deriving DecidableEq, Repr

/-! ### Rumble driver (chapter 9) -/

/-- A step of a pattern (R155). -/
structure RumbleStep where
  level : Nat
  duration : Nat
deriving DecidableEq, Repr

/-- A pattern; its step count is the number of its steps, and it is not loaded when that is 0 (R155). -/
structure Pattern where
  steps : List RumbleStep
  repeats : Nat
deriving DecidableEq, Repr

inductive Origin where
  | console
  | cue
deriving DecidableEq, Repr

/-- A rumble request (section 9.2). -/
structure RumbleRequest where
  pattern : Fin 16
  priority : Fin 4
  origin : Origin
deriving DecidableEq, Repr

/-- Further plays of the pattern after the present one (R157). -/
inductive Plays where
  | endless
  | left (n : Nat)
deriving DecidableEq, Repr

/-- The working fields a request takes at its start: step position, units left and plays left (R157, R161). -/
structure Playing where
  position : Nat
  unitsLeft : Nat
  plays : Plays
deriving DecidableEq, Repr

/-- The current request (R157). Its started mark is set exactly when it is playing; before that R157 gives its step
position, units left and plays left no value, and none is held (log 13). -/
structure CurrentRequest where
  request : RumbleRequest
  playing : Option Playing
deriving DecidableEq, Repr

/-- The rumble driver. -/
structure Rumble where
  patterns : Table Pattern 16
  current : Option CurrentRequest
  /-- The waiting queue, head first (R159). -/
  queue : List RumbleRequest
  supplyLow : Bool
  ceiling : Nat
  kick : Bool
  quiet : Bool
  strength : Nat
  kickSetting : Bool
  droppedCues : Nat
deriving DecidableEq, Repr

/-! ### The whole part -/

/-- The state of the CL24 and the queue of commands that wait for it. -/
structure State where
  /-- The commands that are waiting, first in, first out. -/
  pending : List Instr
  calendar : Calendar
  engine : Engine
  store : Store
  power : Power
  window : Window
  notices : Notices
  sound : Sound
  link : Link
  rumble : Rumble
  /-- How many free values have been taken: the model's own field (log 13). No statement rests on its value. -/
  draws : Nat
deriving DecidableEq, Repr

/-- The reasons a step can stop the machine: none. The manual gives every event of the part an effect, and a block
number cannot name a byte outside keep memory. -/
inductive Fault where
deriving DecidableEq, Repr

/-- The reasons a command has no meaning. -/
inductive Refusal where
  /-- The command has no meaning in this model yet. Safe. No arm of exec answers it. -/
  | notModelled (mnemonic : String)
deriving DecidableEq, Repr

/-! ### Reset values -/

/-- The calendar after a cell reset (R79). -/
def Calendar.reset : Calendar :=
  { trueSecond := 0, minutePhase := 0, state := .unset, wallOffset := 0, dayTurn := 0, endMark := false,
    minutesHanded := 0, minuteReadingTaken := false }

/-- The event engine after a cell reset (R105). -/
def Engine.reset : Engine :=
  { slots := Table.fill 48 none, dueList := [], threshold := 1, tends := [], answers := [] }

/-- The record store after a cell reset, the keep-lost mark set (R17). -/
def Store.reset : Store :=
  { memory := [], catalog := [], changesLost := 0, keepLost := true, auditFlag := false, auditPosition := 0 }

/-- Power control and the supply watch after a cell reset (R180). -/
def Power.reset : Power :=
  { main := .off, keepRuns := true, reading := { console := 0, cell := 0 }, cellLow := false,
    retentionDoubtful := false, firstReading := false, resetHeld := false }

/-- The window after a main reset (R186). -/
def Window.reset : Window :=
  { request := Table.fill 31 0, answer := Table.fill 32 0, buffer := Table.fill 64 0, work := none, answered := false,
    overrun := false }

/-- The notice unit cleared, as R194 has it at a main reset before it takes the KEEP report. -/
def Notices.reset : Notices :=
  { enable := 0,
    power := { pending := false, halted := false, resumed := false, cellLow := false },
    keep := { pending := false, damageFound := false, keepLost := false, changesLost := false,
              retentionDoubtful := false },
    link := { pending := false, lost := false, regained := false },
    starved := { pending := false, voices := 0 },
    rumble := { pending := false, done := false } }

/-- A voice after a main reset (R125). -/
def Voice.reset : Voice :=
  { state := .idle, queue := [], current := none, spent := false, lengthCounter := 0, paceCounter := 0, volume := 0,
    phase := 0, noise := 0x7FFF, startMark := false, group := .a, conditioning := .silence, refill := 0 }

/-- The sound engine after a main reset (R120, R125, R142). -/
def Sound.reset : Sound :=
  { voices := Table.fill 8 Voice.reset, waves := Table.fill 8 (Table.fill 32 0), markers := [], dropped := false,
    master := Config.resetMaster, savedMaster := none, clipped := 0, tickHanded := false, cues := [] }

/-- The audio link after a main reset (R154). -/
def Link.reset : Link :=
  { mode := .follow, state := .seeking, format := .pair, offset := 0, slips := 0, goodRun := 0, substitutionRun := 0,
    reference := none, tickPhase := 0, unitPhase := 0, ownNext := Config.period, ownLast := none, unitsHanded := 0,
    sent := Table.fill 4 0, framesSent := 0, outputsHold := false }

/-- The rumble driver after a main reset (R173). -/
def Rumble.reset : Rumble :=
  { patterns := Table.fill 16 { steps := [], repeats := 0 }, current := none, queue := [], supplyLow := false,
    ceiling := 0, kick := false, quiet := false, strength := 15, kickSetting := false, droppedCues := 0 }

/-- The part right after a cell reset: the keep domain's blocks at their cell-reset values, the main domain OFF (R17,
R79, R105, R180; log 4, log 5). -/
def State.reset : State :=
  { pending := [], calendar := .reset, engine := .reset, store := .reset, power := .reset, window := .reset,
    notices := .reset, sound := .reset, link := .reset, rumble := .reset, draws := 0 }

end Sys2Proof.Machine
end

