-- ==== Sys2Proof/Machine/Ops.lean ====
section
/-! DEFINITION. The named operations the meanings share: keep memory, payloads, blocks and catalog; the window's taking of
a submit and placing of an answer; the raising of notice causes; the wake from DOZE. The part has no exception entry:
what stands in its place is the raising of a cause and the placing of a result code. -/

namespace Sys2Proof.Machine

open Sys2Proof

/-! ### Keep memory (R1; log 6) -/

/-- The byte at an address. -/
def Memory.read : Memory → Nat → Byte
  | [], _ => Config.unwrittenByte
  | (k, v) :: rest, a => if k = a then v else Memory.read rest a

/-- Memory with one byte written, in canonical form. -/
def Memory.write : Memory → Nat → Byte → Memory
  | [], a, b => if b = Config.unwrittenByte then [] else [(a, b)]
  | (k, v) :: rest, a, b =>
    if a < k then
      if b = Config.unwrittenByte then (k, v) :: rest else (a, b) :: (k, v) :: rest
    else if a = k then
      if b = Config.unwrittenByte then rest else (a, b) :: rest
    else (k, v) :: Memory.write rest a b

/-- The canonical form: addresses rising, no entry equal to the unwritten byte. -/
abbrev Memory.Wf (m : Memory) : Prop :=
  m.Pairwise (fun x y => x.1 < y.1) ∧ ∀ c ∈ m, c.2 ≠ Config.unwrittenByte

/-- The address of payload byte `i` of the contents a block list carries: the blocks carry 64 bytes each, in list order
(section 1.1, R19). -/
def payloadAddress (blocks : List Block) (i : Nat) : Option Nat :=
  blocks[i / Config.blockSize]?.map fun b => b.val * Config.blockSize + i % Config.blockSize

/-- Payload byte `i`. -/
def payloadByte (m : Memory) (blocks : List Block) (i : Nat) : Byte :=
  match payloadAddress blocks i with
  | some a => Memory.read m a
  | none => Config.unwrittenByte

/-- Payload bytes `offset` to `offset + count - 1`. -/
def readPayload (m : Memory) (blocks : List Block) (offset count : Nat) : List Byte :=
  (List.range count).map fun j => payloadByte m blocks (offset + j)

/-- Memory with payload byte `i` written. -/
def writePayloadByte (m : Memory) (blocks : List Block) (i : Nat) (b : Byte) : Memory :=
  match payloadAddress blocks i with
  | some a => Memory.write m a b
  | none => m

/-- Memory with bytes written from payload byte `i` on. -/
def writePayload : Memory → List Block → Nat → List Byte → Memory
  | m, _, _, [] => m
  | m, blocks, i, b :: rest => writePayload (writePayloadByte m blocks i b) blocks (i + 1) rest

/-- The blocks a length takes: ceil(length / 64). -/
def blocksFor (length : Nat) : Nat := (length + (Config.blockSize - 1)) / Config.blockSize

/-! ### The record check (R6) -/

/-- One doubling of the remainder, with the generator combined when the bit that left was one. -/
def crcShift (r : Half) : Half :=
  if r.msb then (r <<< 1) ^^^ 0x1021 else r <<< 1

/-- The remainder doubled eight times in turn. -/
def crcShift8 (r : Half) : Half :=
  crcShift (crcShift (crcShift (crcShift (crcShift (crcShift (crcShift (crcShift r)))))))

/-- The remainder after one input byte. -/
def crcByte (r : Half) (b : Byte) : Half :=
  crcShift8 (r ^^^ (b.setWidth 16 <<< 8))

/-- The high and low byte of a two-byte field, high byte first. -/
def halfBytes (v : Half) : List Byte := [v.extractLsb' 8 8, v.extractLsb' 0 8]

/-- The check of a record: over key, length and payload, from all ones, not inverted. -/
def recordCheck (key length : Nat) (payload : List Byte) : Half :=
  (halfBytes (BitVec.ofNat 16 key) ++ halfBytes (BitVec.ofNat 16 length) ++ payload).foldl crcByte 0xFFFF

/-! ### Catalog and blocks (R1 to R4) -/

/-- The shadow blocks of an entry. -/
def Entry.shadowBlocks (e : Entry) : List Block :=
  match e.shadow with
  | some sh => sh.blocks
  | none => []

/-- A record is OPEN while it has a shadow (R4). -/
def Entry.isOpen (e : Entry) : Bool := e.shadow.isSome

/-- The blocks that are committed or shadow. -/
def Store.usedBlocks (st : Store) : List Block :=
  st.catalog.flatMap fun e => e.blocks ++ e.shadowBlocks

/-- The free blocks, ascending (R1, R2). -/
def Store.freeBlocks (st : Store) : List Block :=
  (List.finRange 1024).filter fun b => !st.usedBlocks.contains b

/-- The `n` lowest-numbered free blocks (R2). -/
def Store.lowestFree (st : Store) (n : Nat) : List Block := st.freeBlocks.take n

/-- Fewer than `n` blocks are free (R2). -/
def Store.lacksSpace (st : Store) (n : Nat) : Bool := decide ((st.lowestFree n).length < n)

/-- The entry under a key, if the key is in the catalog. -/
def Store.find (st : Store) (key : Nat) : Option Entry := st.catalog.find? fun e => e.key == key

/-- The number of OPEN entries (R19). -/
def Store.openCount (st : Store) : Nat := st.catalog.countP fun e => e.isOpen

/-- The catalog with the entry of a key changed. -/
def Store.update (st : Store) (key : Nat) (f : Entry → Entry) : Store :=
  { st with catalog := st.catalog.map fun e => if e.key = key then f e else e }

/-- An entry placed by key order (R3). -/
def insertEntry (e : Entry) : List Entry → List Entry
  | [] => [e]
  | x :: rest => if e.key < x.key then e :: x :: rest else x :: insertEntry e rest

/-- Any catalog entry carries the damage mark (R35). -/
def Store.anyDamage (st : Store) : Bool := st.catalog.any fun e => e.damage

/-- A key that no record can have (R5). -/
def badKey (key : Half) : Bool := key == 0 || key == 0xFFFF

/-! ### Fixed byte areas -/

/-- `bytes` laid over a list from place `start` on. -/
def overlay : List Byte → Nat → List Byte → List Byte
  | [], _, _ => []
  | old :: rest, start + 1, bytes => old :: overlay rest start bytes
  | old :: rest, 0, [] => old :: rest
  | _ :: rest, 0, b :: bytes => b :: overlay rest 0 bytes

theorem overlay_length (old : List Byte) (start : Nat) (bytes : List Byte) :
    (overlay old start bytes).length = old.length := by
  induction old generalizing start bytes with
  | nil => rfl
  | cons o rest ih => cases start <;> cases bytes <;> simp [overlay, ih]

/-- `bytes` laid over an area from place `start` on. -/
def Area.lay {n : Nat} (t : Table Byte n) (start : Nat) (bytes : List Byte) : Table Byte n :=
  ⟨overlay t.items start bytes, (overlay_length _ _ _).trans t.size⟩

/-- The byte at place `i` of an area, 0 beyond it. -/
def Area.byteAt {n : Nat} (t : Table Byte n) (i : Nat) : Byte := (t.items[i]?).getD 0

/-- The transfer buffer holding `bytes` from offset 64 and 0 in every byte after them. -/
def Window.fillBuffer (w : Window) (bytes : List Byte) : Window :=
  { w with buffer := Area.lay (Table.fill 64 0) 0 bytes }

/-! ### Result codes (11.4) -/

/-- The results an answer can name. -/
inductive Result where
  | ok | part | done | range | unknown | noRecord | existsAlready | isOpen | notOpen | noSpace | catalogFull | openLimit
  | noCounter | mismatch | unset | tagTaken | tableFull | noEvent | notDue | changesOpen | queueFull | noPattern
deriving DecidableEq, Repr

/-- The code of a result at offset 32. -/
def Result.code : Result → Byte
  | .ok => 0
  | .part => 1
  | .done => 2
  | .range => 3
  | .unknown => 4
  | .noRecord => 5
  | .existsAlready => 6
  | .isOpen => 7
  | .notOpen => 8
  | .noSpace => 9
  | .catalogFull => 10
  | .openLimit => 11
  | .noCounter => 12
  | .mismatch => 13
  | .unset => 14
  | .tagTaken => 15
  | .tableFull => 16
  | .noEvent => 17
  | .notDue => 18
  | .changesOpen => 19
  | .queueFull => 20
  | .noPattern => 21

/-- The first condition of a table of checks that holds names the result; none holds: the request passes. -/
def firstFailing : List (Bool × Result) → Option Result
  | [] => none
  | (fails, r) :: rest => if fails then some r else firstFailing rest

/-! ### Taking a submit and placing an answer (R182, R184 to R186) -/

/-- The main domain is up: RUN or DOZE (R174). -/
def State.mainUp (s : State) : Bool := s.power.main != .off

/-- The window takes writes: the main domain is up and nCRST is not held (R177, R178). -/
def State.windowLive (s : State) : Bool := s.mainUp && !s.power.resetHeld

/-- The window is BUSY (R184). -/
def Window.busy (w : Window) : Bool := w.work.isSome

/-- The return from DOZE to RUN at the step of a submit: the saved master is restored and the quiet mark cleared (R138,
R172, R182). In RUN it changes nothing. -/
def State.wake (s : State) : State :=
  match s.power.main with
  | .doze =>
    { s with
      power := { s.power with main := .run }
      sound := { s.sound with master := s.sound.savedMaster.getD s.sound.master, savedMaster := none }
      rumble := { s.rumble with quiet := false } }
  | .run => s
  | .off => s

/-- The submit taken: the request area holds the request's bytes from offset 1, the answer area is all zeros, the overrun
mark is clear (R185; log 1). -/
def State.taken (bytes : List Byte) (s : State) : State :=
  { s with
    window :=
      { s.window with
        request := Area.lay s.window.request 0 bytes
        answer := Table.fill 32 0
        overrun := false } }

/-- A request: its code and operands are written from offset 1 and offset 0 is written (R184, R185; log 1). The window
ignores it while the main domain is OFF or nCRST is held; BUSY, it is ignored and sets the overrun mark; otherwise the part
wakes if it dozes, the submit is taken, and the owning block acts, told whether the submit woke the part. -/
def submit (bytes : List Byte) (act : (woke : Bool) → State → State) (s : State) : State :=
  if !s.windowLive then s
  else if s.window.busy then { s with window := { s.window with overrun := true } }
  else act (s.power.main == .doze) (s.wake.taken bytes)

/-- The answer placed: result code at offset 32, data from offset 33, the window DONE (R185). -/
def State.answer (s : State) (r : Result) (data : List Byte) : State :=
  { s with
    window :=
      { s.window with
        answer := Area.lay (Table.fill 32 0) 0 (r.code :: data)
        work := none
        answered := true } }

/-- The request stays in hand, the window BUSY, with its work so far (R185). -/
def State.holdWork (s : State) (w : Work) : State :=
  { s with window := { s.window with work := some w } }

/-! ### Raising edge causes (R190) -/

/-- POWER with "rumble halted" (R168). -/
def Notices.raiseHalted (n : Notices) : Notices :=
  { n with power := { n.power with pending := true, halted := true } }

/-- POWER with "rumble resumed" (R168). -/
def Notices.raiseResumed (n : Notices) : Notices :=
  { n with power := { n.power with pending := true, resumed := true } }

/-- POWER with "cell low" (R179). -/
def Notices.raiseCellLow (n : Notices) : Notices :=
  { n with power := { n.power with pending := true, cellLow := true } }

/-- KEEP with "damage found" (R39). -/
def Notices.raiseDamageFound (n : Notices) : Notices :=
  { n with keep := { n.keep with pending := true, damageFound := true } }

/-- KEEP with the details a main reset reports, if any (R42, R180, R194). -/
def Notices.raiseKeepReport (n : Notices) (keepLost changesLost doubtful : Bool) : Notices :=
  if keepLost || changesLost || doubtful then
    { n with
      keep :=
        { n.keep with
          pending := true
          keepLost := n.keep.keepLost || keepLost
          changesLost := n.keep.changesLost || changesLost
          retentionDoubtful := n.keep.retentionDoubtful || doubtful } }
  else n

/-- LINK with "lost" (R148). -/
def Notices.raiseLinkLost (n : Notices) : Notices :=
  { n with link := { n.link with pending := true, lost := true } }

/-- LINK with "regained" (R149). -/
def Notices.raiseLinkRegained (n : Notices) : Notices :=
  { n with link := { n.link with pending := true, regained := true } }

/-- STARVED with a mask of voices (R117); no voice, no raise. -/
def Notices.raiseStarved (n : Notices) (voices : Byte) : Notices :=
  if voices = 0 then n else { n with starved := { pending := true, voices := n.starved.voices ||| voices } }

/-- RUMBLE with "done" (R162). -/
def Notices.raiseDone (n : Notices) : Notices :=
  { n with rumble := { pending := true, done := true } }

/-- A raise made only when something came about. -/
def Notices.raiseIf (n : Notices) (came : Bool) (raise : Notices → Notices) : Notices :=
  if came then raise n else n

end Sys2Proof.Machine
end

