-- ==== Sys2Proof/Machine/Operands.lean ====
section
/-! DEFINITION. The operand forms: the bytes by which each request reaches the request area, the signed and masked forms,
the decoding of note entries and arming actions, and the encodings of answer fields (R195, 11.4). Fields of more than one
byte are high byte first. -/

namespace Sys2Proof.Machine

open Sys2Proof

/-! ### Encodings -/

/-- Three bytes, high byte first. -/
def bytes3 (v : BitVec 24) : List Byte := [v.extractLsb' 16 8, v.extractLsb' 8 8, v.extractLsb' 0 8]

/-- Four bytes, high byte first. -/
def bytes4 (v : BitVec 32) : List Byte :=
  [v.extractLsb' 24 8, v.extractLsb' 16 8, v.extractLsb' 8 8, v.extractLsb' 0 8]

/-- Five bytes, high byte first. -/
def bytes5 (v : BitVec 40) : List Byte :=
  [v.extractLsb' 32 8, v.extractLsb' 24 8, v.extractLsb' 16 8, v.extractLsb' 8 8, v.extractLsb' 0 8]

/-- A number as one byte. -/
def nat1 (n : Nat) : Byte := BitVec.ofNat 8 n
/-- An unsigned number as two bytes. -/
def nat2 (n : Nat) : List Byte := halfBytes (BitVec.ofNat 16 n)
/-- An unsigned number as three bytes. -/
def nat3 (n : Nat) : List Byte := bytes3 (BitVec.ofNat 24 n)
/-- An unsigned number as four bytes. -/
def nat4 (n : Nat) : List Byte := bytes4 (BitVec.ofNat 32 n)
/-- An unsigned number as five bytes. -/
def nat5 (n : Nat) : List Byte := bytes5 (BitVec.ofNat 40 n)
/-- A signed number as two bytes. -/
def int2 (z : Int) : List Byte := halfBytes (BitVec.ofInt 16 z)
/-- A signed number as four bytes. -/
def int4 (z : Int) : List Byte := bytes4 (BitVec.ofInt 32 z)
/-- A mark or flag as one byte. -/
def flag1 (b : Bool) : Byte := if b then 1 else 0

/-- A mask over the eight voices, bit v for voice v. -/
def maskOf (p : Fin 8 → Bool) : Byte :=
  BitVec.ofBoolListLE [p 0, p 1, p 2, p 3, p 4, p 5, p 6, p 7]

/-- Whether a mask names a voice. -/
def named (mask : Byte) (v : Fin 8) : Bool := mask.getLsbD v.val

/-- A value clamped into a range: the smaller of the upper bound and the larger of the lower bound and the value (00). -/
def clamp (low high x : Int) : Int := min high (max low x)

/-! ### Note entries (R108, 11.4) -/

/-- The timbre a code names. -/
def timbreOf (b : Byte) : Option Timbre :=
  if b = 0 then some .square12
  else if b = 1 then some .square25
  else if b = 2 then some .square50
  else if b = 3 then some .square75
  else if b = 4 then some .noiseLong
  else if b = 5 then some .noiseShort
  else if b = 6 then some .rest
  else if h : 8 ≤ b.toNat ∧ b.toNat < 16 then some (.wave ⟨b.toNat - 8, by omega⟩)
  else none

/-- The code of a timbre. -/
def Timbre.code : Timbre → Byte
  | .square12 => 0
  | .square25 => 1
  | .square50 => 2
  | .square75 => 3
  | .noiseLong => 4
  | .noiseShort => 5
  | .rest => 6
  | .wave t => nat1 (8 + t.val)

/-- A pitch step clamped to 16383 (R108). -/
def clampPitch (p : Half) : Half := if p.toNat > Config.maxPitch then BitVec.ofNat 16 Config.maxPitch else p

/-- The note entry eight bytes carry, its pitch step clamped; none if the timbre code names no timbre (R108, R109). -/
def noteOf (b : NoteBytes) : Option Note :=
  (timbreOf b.timbre).map fun t =>
    { timbre := t
      pitch := clampPitch b.pitch
      length := b.length.toNat
      startVolume := (b.envelope.extractLsb' 4 4).toFin
      envelopeUp := b.envelope.getLsbD 3
      pace := (b.envelope.extractLsb' 0 3).toFin
      left := (b.pan.extractLsb' 6 2).toFin
      right := (b.pan.extractLsb' 4 2).toFin
      marker := if b.marker = 0 then none else some b.marker
      cue :=
        if b.cue.getLsbD 7 then
          some { pattern := (b.cue.extractLsb' 0 4).toFin, priority := (b.cue.extractLsb' 4 2).toFin }
        else none }

/-! ### The bytes of a request (R185) -/

/-- The eight bytes of a note entry. -/
def entryBytes (n : NoteBytes) : List Byte :=
  n.timbre :: halfBytes n.pitch ++ [n.length, n.envelope, n.pan, n.marker, n.cue]

/-- The six bytes of a counter specification. -/
def specBytes (c : CounterSpec) : List Byte :=
  halfBytes c.floor ++ halfBytes c.ceiling ++ halfBytes c.initial

/-- The five bytes of an arming action, from window offset 12 (R82). -/
def armActionBytes (a : ActionBytes) : List Byte := a.action :: halfBytes a.key ++ [a.index, a.step]

/-- The bytes a request lays in the request area from offset 1: its command code (11.4, Command codes) and its operands
from offset 2. The bytes of the arming requests between the schedule operands and offset 12 are reserved; the model lays 0
there. Events that are no request lay nothing. -/
def requestBytes : Instr → List Byte
  | .identify => [1]
  | .readStatus => [2]
  | .readNotices => [3]
  | .ackNotice mask => [4, mask]
  | .setNoticeMask mask => [5, mask]
  | .quiesce => [6]
  | .softReset _ => [7]
  | .unknown code => [code]
  | .create key length fill count s0 s1 s2 s3 =>
    16 :: halfBytes key ++ halfBytes length ++ [fill, count] ++ specBytes s0 ++ specBytes s1 ++ specBytes s2 ++ specBytes s3
  | .info key => 17 :: halfBytes key
  | .list after => 18 :: halfBytes after
  | .retire key => 19 :: halfBytes key
  | .openChange key newLength copyIn => 20 :: halfBytes key ++ halfBytes newLength ++ [copyIn]
  | .writePiece key offset count => 21 :: halfBytes key ++ halfBytes offset ++ [count]
  | .readPiece key offset count source => 22 :: halfBytes key ++ halfBytes offset ++ [count, source]
  | .closeChange key => 23 :: halfBytes key
  | .closeAll => [24]
  | .abandonChange key => 25 :: halfBytes key
  | .storeSpace => [26]
  | .readCounter key index => 32 :: halfBytes key ++ [index]
  | .adjustCounter key index delta => 33 :: halfBytes key ++ [index] ++ halfBytes delta
  | .setCounter key index value => 34 :: halfBytes key ++ [index] ++ halfBytes value
  | .swapCounter key index expected new => 35 :: halfBytes key ++ [index] ++ halfBytes expected ++ halfBytes new
  | .setBounds key index floor ceiling => 36 :: halfBytes key ++ [index] ++ halfBytes floor ++ halfBytes ceiling
  | .readClock => [48]
  | .setWall year month day hour minute second => 49 :: halfBytes year ++ [month, day, hour, minute, second]
  | .setDayTurn turn => 50 :: halfBytes turn
  | .armElapsed tag first interval action =>
    52 :: halfBytes tag ++ bytes3 first ++ bytes3 interval ++ [0, 0] ++ armActionBytes action
  | .armDaily tag period first action =>
    53 :: halfBytes tag ++ [period, first] ++ [0, 0, 0, 0, 0, 0] ++ armActionBytes action
  | .armWall tag due action => 54 :: halfBytes tag ++ bytes4 due ++ [0, 0, 0, 0] ++ armActionBytes action
  | .findEvent tag => 55 :: halfBytes tag
  | .eventInfo slot => [56, slot]
  | .cancelEvent slot => [57, slot]
  | .readDue start => [58, start]
  | .ackDue slot count => [59, slot, count]
  | .setDueThreshold threshold => [60, threshold]
  | .loadWave table => [64, table]
  | .setVoice voice group conditioning refill => [65, voice, group, conditioning, refill]
  | .queueNotes voice count n1 n2 n3 => [66, voice, count] ++ entryBytes n1 ++ entryBytes n2 ++ entryBytes n3
  | .startVoices mask => [67, mask]
  | .holdVoices mask => [68, mask]
  | .releaseVoices mask => [69, mask]
  | .stopVoices mask => [70, mask]
  | .setMaster volume => [71, volume]
  | .readVoices => [72]
  | .readMarkers => [73]
  | .setLink mode format offset _ => [80, mode, format, offset]
  | .readLink => [81]
  | .loadPattern pattern count repeats => [96, pattern, count, repeats]
  | .playPattern pattern priority => [97, pattern, priority]
  | .stopRumble => [98]
  | .setRumble strength kick => [99, strength, kick]
  | .readRumble => [100]
  | .readPower => [112]
  | .overrun | .windowWrite .. | .entryStep | .retireAnswer | .openChangeEntry | .verification | .swapStage => []
  | .auditStep | .tendAction | .tendAnswer | .secondEvent | .minuteEvent _ => []
  | .cue | .frameInstant | .fsiStrobe _ | .substitution | .soundTick | .fadeComplete | .rumbleUnit => []
  | .supplyReading _ | .wakeEvent _ | .consoleReset | .consoleResetRelease => []
  | .retentionDoubtful _ | .keepDomainStop | .cellReset => []

end Sys2Proof.Machine
end

