-- ==== Sys2Proof/Machine/Flags.lean ====
section
/-! DEFINITION. The conditions the manual defines from other state: rumble state and duty, the REFILL, DUE and MARKER
conditions, the pending-cause mask, the notice line, the detail block, the status byte, and what a read of the window
returns (log 8, log 26). -/

namespace Sys2Proof.Machine

open Sys2Proof

/-! ### Rumble (R157, R164, R166) -/

/-- The rumble states (R157). -/
inductive RumbleState where
  | still
  | running
  | halted
deriving DecidableEq, Repr

/-- STILL with no current request; else HALTED while the supply-low mark is set, RUNNING otherwise (R157). -/
def Rumble.state (r : Rumble) : RumbleState :=
  match r.current with
  | none => .still
  | some _ => if r.supplyLow then .halted else .running

/-- The code of a rumble state (R171). -/
def RumbleState.code : RumbleState → Byte
  | .still => 0
  | .running => 1
  | .halted => 2

/-- The step at a position of a pattern. -/
def Pattern.stepAt (p : Pattern) (position : Nat) : RumbleStep := p.steps.getD position { level := 0, duration := 1 }

/-- The requested duty of a level at a strength: floor((level * strength + 7) / 15) (R164). -/
def requestedDuty (level strength : Nat) : Nat := (level * strength + 7) / 15

/-- The started mark of the current request (R157). -/
def CurrentRequest.started (c : CurrentRequest) : Bool := c.playing.isSome

/-- The requested duty r of the present step at the present strength, 0 with no request playing (R164, R166). -/
def Rumble.requested (r : Rumble) : Nat :=
  match r.current with
  | none => 0
  | some c =>
    match c.playing with
    | none => 0
    | some p => requestedDuty ((r.patterns.get c.request.pattern).stepAt p.position).level r.strength

/-- The duty applied to the motor (R166). -/
def Rumble.duty (r : Rumble) (main : MainState) : Nat :=
  match main, r.current with
  | .run, some c =>
    if r.supplyLow || !c.started then 0
    else if r.kick then (if min r.ceiling r.requested = 0 then 0 else r.ceiling)
    else min r.ceiling r.requested
  | _, _ => 0

/-- The duty as it stands (R166). -/
def State.duty (s : State) : Nat := s.rumble.duty s.power.main

/-! ### Conditions of level causes (R104, R119, R120) -/

/-- A voice is in the REFILL condition (R119). -/
def Voice.wantsRefill (v : Voice) : Bool :=
  (v.state == .playing || v.state == .starved) && decide (0 < v.refill) && decide (v.queue.length < v.refill)

/-- The mask of voices in the REFILL condition (R119). -/
def Sound.refillMask (so : Sound) : Byte := maskOf fun v => (so.voices.get v).wantsRefill

/-- The DUE condition: the due list is at or above the threshold (R104). -/
def Engine.dueCondition (e : Engine) : Bool := decide (e.threshold ≤ e.dueList.length)

/-! ### Pending causes and the line (R190, R191) -/

/-- Bits 0 to 7 of a byte. -/
def bits (b0 b1 b2 b3 b4 b5 b6 b7 : Bool) : Byte := BitVec.ofBoolListLE [b0, b1, b2, b3, b4, b5, b6, b7]

/-- The pending-cause mask, bit n - 1 for cause n (R188, R190). -/
def State.pendingMask (s : State) : Byte :=
  bits s.notices.power.pending s.notices.keep.pending s.notices.link.pending s.notices.starved.pending
    s.engine.dueCondition (s.sound.refillMask != 0) (s.sound.markers.length != 0) s.notices.rumble.pending

/-- The number of the lowest-numbered cause of a mask, 0 for none (R190). -/
def highestCause (mask : Byte) : Nat :=
  if mask.getLsbD 0 then 1
  else if mask.getLsbD 1 then 2
  else if mask.getLsbD 2 then 3
  else if mask.getLsbD 3 then 4
  else if mask.getLsbD 4 then 5
  else if mask.getLsbD 5 then 6
  else if mask.getLsbD 6 then 7
  else if mask.getLsbD 7 then 8
  else 0

/-- nNOTE is driven low: an enabled cause is pending, the main domain is up and nCRST is not held (R191). -/
def State.noticeLine (s : State) : Bool :=
  s.mainUp && !s.power.resetHeld && (s.pendingMask &&& s.notices.enable != 0)

/-- A byte shown only where its cause is in a mask. -/
def shown (mask : Byte) (bit : Nat) (b : Byte) : Byte := if mask.getLsbD bit then b else 0

/-- The notice detail block, with zeros in place of every cause outside the mask (R192, R193, 11.4). -/
def State.detailBlock (s : State) (mask : Byte) : List Byte :=
  [ shown mask 0 (bits s.notices.power.halted s.notices.power.resumed s.notices.power.cellLow false false false false false),
    shown mask 1 (bits s.notices.keep.damageFound s.notices.keep.keepLost s.notices.keep.changesLost
      s.notices.keep.retentionDoubtful false false false false),
    shown mask 1 (nat1 s.store.changesLost),
    shown mask 2 (bits s.notices.link.lost s.notices.link.regained false false false false false false),
    shown mask 3 s.notices.starved.voices,
    shown mask 4 (nat1 s.engine.dueList.length),
    shown mask 4 (nat1 s.engine.threshold),
    shown mask 5 s.sound.refillMask,
    shown mask 6 (nat1 s.sound.markers.length),
    shown mask 7 (bits s.notices.rumble.done false false false false false false false) ]

/-! ### The window as the console reads it (R184, 11.4) -/

/-- The window states (R184). -/
inductive WindowState where
  | idle
  | busy
  | done
deriving DecidableEq, Repr

/-- IDLE until the first submit after a main reset, BUSY while a request is in hand, DONE after its answer (R184). -/
def Window.state (w : Window) : WindowState :=
  if w.busy then .busy else if w.answered then .done else .idle

/-- The code of a window state in the status byte. -/
def WindowState.code : WindowState → BitVec 2
  | .idle => 0
  | .busy => 1
  | .done => 2

/-- The status byte (11.4). -/
def State.statusByte (s : State) : Byte :=
  s.window.state.code ++ (BitVec.ofBool s.window.overrun ++ (BitVec.ofBool s.store.auditFlag ++
    (BitVec.ofBool (s.pendingMask != 0) ++ BitVec.ofNat 3 (highestCause s.pendingMask - 1))))

/-- What a read of an offset returns; none while the main domain is OFF (R184). -/
def State.windowRead (s : State) (offset : BitVec 7) : Option Byte :=
  if !s.mainUp then none
  else if offset.toNat = 0 then some s.statusByte
  else if offset.toNat < 32 then some 0
  else if s.window.busy then some 0
  else if offset.toNat < 64 then some (Area.byteAt s.window.answer (offset.toNat - 32))
  else some (Area.byteAt s.window.buffer (offset.toNat - 64))

/-! ### The frame on ASD (R145) -/

/-- The 64 bits of the frame last sent, in the order ASD carries them from FSO on: position 0 first, each word high bit
first (R145). -/
def Link.asd (l : Link) : List Bool := l.sent.items.flatMap fun w => (List.range 16).map fun k => w.getMsbD k

/-! ### Counters (R44) -/

/-- The limit flag: the clamp acted (R44). -/
def limitFlag (computed result : Int) : Bool := decide (computed ≠ result)

end Sys2Proof.Machine
end

