-- ==== Sys2Proof/Machine/Time.lean ====
section
/-! DEFINITION. What the calendar derives from its six items: the wall second, the wall date and time, the game day, its
weekday and the seconds into it (chapter 4). -/

namespace Sys2Proof.Machine

open Sys2Proof

/-- The wall second S: the smaller of T + W and the top (R60). -/
def Calendar.wallSecond (c : Calendar) : Nat :=
  (min (c.trueSecond + c.wallOffset) (Config.topWall : Int)).toNat

/-- The numerator of R66: S + 86,400 - 60 D. -/
def Calendar.dayNumerator (c : Calendar) : Int :=
  (c.wallSecond : Int) + Config.daySeconds - 60 * c.dayTurn

/-- The game day G (R66). -/
def Calendar.gameDay (c : Calendar) : Int := c.dayNumerator / (Config.daySeconds : Int)

/-- The seconds into the game day (R68). -/
def Calendar.intoDay (c : Calendar) : Int := c.dayNumerator % (Config.daySeconds : Int)

/-- The weekday of game day G, 0 for Monday (R67). -/
def weekday (g : Int) : Int := (g + 4) % 7

/-- A wall date and time (section 4.3). -/
structure WallDate where
  year : Nat
  month : Nat
  day : Nat
  hour : Nat
  minute : Nat
  second : Nat
deriving DecidableEq, Repr

/-- Every year of the range divisible by 4 is a leap year (section 4.3). -/
def leapYear (year : Nat) : Bool := year % 4 == 0

/-- Days before the first of a month, by the table of section 4.3. -/
def daysBefore (leap : Bool) (month : Nat) : Nat :=
  (if leap then [0, 31, 60, 91, 121, 152, 182, 213, 244, 274, 305, 335]
   else [0, 31, 59, 90, 120, 151, 181, 212, 243, 273, 304, 334]).getD (month - 1) 0

/-- Days in a month, by the table of section 4.3. -/
def daysIn (leap : Bool) (month : Nat) : Nat :=
  (if leap then [31, 29, 31, 30, 31, 30, 31, 31, 30, 31, 30, 31]
   else [31, 28, 31, 30, 31, 30, 31, 31, 30, 31, 30, 31]).getD (month - 1) 0

/-- The last month whose days before its first are at or below a day of the year (R63). -/
def monthOf (leap : Bool) (dayOfYear : Nat) : Nat :=
  ((List.range 12).filter fun m => daysBefore leap (m + 1) ≤ dayOfYear).length

/-- The year within its cycle of four and the day of the year, of the r-th day of the cycle (R63). -/
def yearInCycle (r : Nat) : Nat × Nat :=
  if r < 366 then (0, r) else (1 + (r - 366) / 365, (r - 366) % 365)

/-- The wall date and time of a wall second (R63). -/
def dateOf (wall : Nat) : WallDate :=
  let dayIndex := wall / Config.daySeconds
  let secondOfDay := wall % Config.daySeconds
  let inCycle := yearInCycle (dayIndex % 1461)
  let year := 2000 + 4 * (dayIndex / 1461) + inCycle.1
  let month := monthOf (leapYear year) inCycle.2
  { year := year
    month := month
    day := inCycle.2 - daysBefore (leapYear year) month + 1
    hour := secondOfDay / 3600
    minute := secondOfDay % 3600 / 60
    second := secondOfDay % 60 }

/-- The target wall second of a valid wall date and time (R64). -/
def wallOf (d : WallDate) : Nat :=
  let n := d.year - 2000
  let dayIndex := 365 * n + (n + 3) / 4 + daysBefore (leapYear d.year) d.month + (d.day - 1)
  dayIndex * Config.daySeconds + d.hour * 3600 + d.minute * 60 + d.second

/-- The position, 1 to 6, of the first field of a date that is not valid (R72). -/
def badDateField (d : WallDate) : Option Nat :=
  if d.year < 2000 ∨ 2099 < d.year then some 1
  else if d.month < 1 ∨ 12 < d.month then some 2
  else if d.day < 1 ∨ daysIn (leapYear d.year) d.month < d.day then some 3
  else if 23 < d.hour then some 4
  else if 59 < d.minute then some 5
  else if 59 < d.second then some 6
  else none

end Sys2Proof.Machine
end

