-- ==== Sys2Proof/Machine/Evaluation.lean ====
section
/-! DEFINITION. Evaluation of the event table (section 5.4), the due list (R100) and the turning of tend actions at a
retirement (R98). -/

namespace Sys2Proof.Machine

open Sys2Proof

/-- The calendar as an evaluation reads it, once: T, and S and G while the state is SET (R92). -/
structure Moment where
  second : Nat
  isSet : Bool
  wall : Nat
  day : Int
deriving DecidableEq, Repr

/-- The reading of the calendar an evaluation makes (R92). -/
def Calendar.moment (c : Calendar) : Moment :=
  { second := c.trueSecond, isSet := c.state == .set, wall := c.wallSecond, day := c.gameDay }

/-- What a schedule gives at a moment: the occurrences counted, the schedule after it, and whether it finished. -/
structure Count where
  occ : Nat
  schedule : Schedule
  finishes : Bool
deriving DecidableEq, Repr

/-- The occurrences a schedule counts (R93, R94, R95). While the calendar is UNSET, S and G are not used (R92). -/
def Schedule.count (now : Moment) : Schedule → Count
  | .elapsed next interval =>
    if now.second < next then { occ := 0, schedule := .elapsed next interval, finishes := false }
    else if interval = 0 then { occ := 1, schedule := .elapsed next interval, finishes := true }
    else
      let occ := (now.second - next) / interval + 1
      { occ := occ, schedule := .elapsed (next + occ * interval) interval, finishes := false }
  | .daily anchor period lastServed =>
    if !now.isSet || now.day ≤ lastServed then
      { occ := 0, schedule := .daily anchor period lastServed, finishes := false }
    else
      let passed := (now.day - anchor) / (period : Int)
      let served := (lastServed - anchor) / (period : Int)
      if passed - served > 0 then
        { occ := (passed - served).toNat, schedule := .daily anchor period (anchor + period * passed),
          finishes := false }
      else { occ := 0, schedule := .daily anchor period lastServed, finishes := false }
  | .wallOnce due =>
    if now.isSet && decide (due ≤ now.wall) then { occ := 1, schedule := .wallOnce due, finishes := true }
    else { occ := 0, schedule := .wallOnce due, finishes := false }

/-- The occurrences an evaluation counts for an event: none for a finished one (R92). -/
def Event.occurrences (now : Moment) (e : Event) : Nat :=
  if e.finished then 0 else (e.schedule.count now).occ

/-- An event after an evaluation: schedule updated; with occurrences, pending count raised and saturated, state DUE, and
on going from ARMED to DUE the first-due second taken (R92, R96). -/
def Event.evaluated (now : Moment) (e : Event) : Event :=
  if e.finished then e
  else
    let c := e.schedule.count now
    if c.occ = 0 then { e with schedule := c.schedule }
    else
      { e with
        schedule := c.schedule
        finished := c.finishes
        pendingCount := min Config.pendingMax (e.pendingCount + c.occ)
        state := .due
        firstDue := if e.state = .armed then now.second else e.firstDue }

/-- The event fell due at this evaluation: ARMED before it, with occurrences counted (R96). -/
def Event.fallsDue (now : Moment) (e : Event) : Bool := e.state == .armed && decide (0 < e.occurrences now)

/-- The tend action an evaluation sends for the event of a slot (R97). -/
def Event.tendSent (now : Moment) (slot : Slot) (e : Event) : Option TendAction :=
  match e.action with
  | .notify => none
  | .tend key index step =>
    if e.occurrences now = 0 then none
    else some { slot := slot, tag := e.tag, key := key, index := index, amount := step * e.occurrences now }

/-- The first-due second of a slot, 0 for a FREE one. -/
def firstDueOf (slots : Table (Option Event) 48) (i : Slot) : Nat :=
  match slots.get i with
  | some e => e.firstDue
  | none => 0

/-- One slot stands before another on the due list: by first-due second, then by slot (R100). -/
def dueBefore (slots : Table (Option Event) 48) (i j : Slot) : Bool :=
  decide (firstDueOf slots i < firstDueOf slots j) ||
    (decide (firstDueOf slots i = firstDueOf slots j) && decide (i < j))

/-- A slot joins the due list at its place (R100). -/
def joinDue (slots : Table (Option Event) 48) (i : Slot) : List Slot → List Slot
  | [] => [i]
  | j :: rest => if dueBefore slots i j then i :: j :: rest else j :: joinDue slots i rest

/-- The slots whose event falls due at a moment, ascending. -/
def Engine.newlyDue (now : Moment) (en : Engine) : List Slot :=
  (List.finRange 48).filter fun i =>
    match en.slots.get i with
    | some e => e.fallsDue now
    | none => false

/-- The tend actions an evaluation sends, in ascending slot order (R97). -/
def Engine.tendsSent (now : Moment) (en : Engine) : List TendAction :=
  (List.finRange 48).filterMap fun i =>
    match en.slots.get i with
    | some e => e.tendSent now i
    | none => none

/-- The table after an evaluation. -/
def Engine.slotsAfter (now : Moment) (en : Engine) : Table (Option Event) 48 :=
  en.slots.map fun slot => slot.map fun e => e.evaluated now

/-- One evaluation of the whole table, one indivisible step (R92): table, due list and tend actions. -/
def Engine.evaluate (now : Moment) (en : Engine) : Engine :=
  { en with
    slots := en.slotsAfter now
    dueList := (en.newlyDue now).foldl (fun list i => joinDue (en.slotsAfter now) i list) en.dueList
    tends := en.tends ++ en.tendsSent now }

/-- The engine evaluates against the calendar as it stands (R91). -/
def State.evaluate (s : State) : State :=
  { s with engine := s.engine.evaluate s.calendar.moment }

/-- A TEND action naming a key turned into NOTIFY with the target-lost mark set; any other event as it is (R98). -/
def Event.retarget (key : Nat) (e : Event) : Event :=
  match e.action with
  | .notify => e
  | .tend k _ _ => if k = key then { e with action := .notify, targetLost := true } else e

/-- The engine takes the record-retired message for a key (R98). -/
def Engine.retired (key : Nat) (en : Engine) : Engine :=
  { en with slots := en.slots.map fun slot => slot.map fun e => e.retarget key }

/-- The lowest-numbered FREE slot (R83). -/
def Engine.freeSlot (en : Engine) : Option Slot := (List.finRange 48).find? fun i => (en.slots.get i).isNone

/-- The slot that holds a tag (R88). -/
def Engine.slotOfTag (en : Engine) (tag : Nat) : Option Slot :=
  (List.finRange 48).find? fun i =>
    match en.slots.get i with
    | some e => e.tag == tag
    | none => false

end Sys2Proof.Machine
end

