-- ==== Sys2Proof/Machine/Records.lean ====
section
/-! DEFINITION. The record store: creating, examining, changing, reading and retiring records, verification and the audit
(chapters 1 and 2). A request that takes time does the work of its stages when it is accepted and holds it; the row of its
completion makes it take effect (log 7). -/

namespace Sys2Proof.Machine

open Sys2Proof

/-! ### Shared -/

/-- The entry of a catalog key for a request that is past its RANGE checks: `bad` is whether one of them fails (R5). -/
def State.onRecord (s : State) (bad : Bool) (key : Half) (act : Entry → State) : State :=
  if bad then s.answer .range []
  else
    match s.store.find key.toNat with
    | none => s.answer .noRecord []
    | some e => act e

/-- A request in hand belongs to the record store (R38). -/
def Work.ofStore : Work → Bool
  | .create .. | .openVerify .. | .openFill .. | .readVerify .. | .close .. | .closeAll _ | .retire .. => true
  | .quiesce => false

/-- The check computed over an entry's committed contents as held (R34). -/
def Store.committedCheck (st : Store) (e : Entry) : Half :=
  recordCheck e.key e.length (readPayload st.memory e.blocks 0 e.length)

/-- An entry after its verification (R34). -/
def Store.verifiedEntry (st : Store) (e : Entry) : Entry :=
  { e with damage := e.damage || (st.committedCheck e != e.check), audited := true }

/-- Verification of a record (R34). -/
def Store.verify (st : Store) (key : Nat) : Store := st.update key st.verifiedEntry

/-- The record must be verified on demand: the audit is in progress and its audited mark is clear (R36). -/
def Store.mustVerify (st : Store) (e : Entry) : Bool := st.auditFlag && !e.audited

/-! ### CREATE (R7, R8) -/

/-- A counter formed from its specification, the initial value clamped (R7, R8). -/
def counterOf (c : CounterSpec) : Counter :=
  { value := clamp c.floor.toInt c.ceiling.toInt c.initial.toInt, floor := c.floor.toInt, ceiling := c.ceiling.toInt }

/-- The checks of CREATE, in order (R7). -/
def createChecks (st : Store) (key length : Half) (count : Byte) (specs : List CounterSpec) : List (Bool × Result) :=
  [ (badKey key, .range),
    (length == 0 || decide (Config.maxLength < length.toNat), .range),
    (decide (Config.counterCapacity < count.toNat), .range),
    ((specs.take count.toNat).any fun c => decide (c.ceiling.toInt < c.floor.toInt), .range),
    ((st.find key.toNat).isSome, .existsAlready),
    (decide (Config.catalogCapacity ≤ st.catalog.length), .catalogFull),
    (st.lacksSpace (blocksFor length.toNat), .noSpace) ]

/-- The fill and check stages of CREATE: the blocks it will take are filled, and the check is computed (R8). -/
def State.fillCreate (s : State) (key length : Nat) (fill : Byte) (counters : List Counter) : State :=
  let blocks := s.store.lowestFree (blocksFor length)
  let memory := writePayload s.store.memory blocks 0 (List.replicate (blocksFor length * Config.blockSize) fill)
  { s with store := { s.store with memory := memory } }.holdWork
    (.create key length blocks (recordCheck key length (readPayload memory blocks 0 length)) counters)

/-- CREATE (R7, R8). -/
def execCreate (key length : Half) (fill count : Byte) (spec0 spec1 spec2 spec3 : CounterSpec) (s : State) :
    Host.Outcome State Fault Refusal :=
  .next <| submit (requestBytes (.create key length fill count spec0 spec1 spec2 spec3))
    (fun _ s =>
      match firstFailing (createChecks s.store key length count [spec0, spec1, spec2, spec3]) with
      | some r => s.answer r []
      | none =>
        s.fillCreate key.toNat length.toNat fill
          (([spec0, spec1, spec2, spec3].take count.toNat).map counterOf)) s

/-- The entry CREATE makes at its entry step (R8). -/
def newEntry (key length : Nat) (blocks : List Block) (check : Half) (counters : List Counter) : Entry :=
  { key := key, length := length, blocks := blocks, generation := 0, check := check, damage := false, audited := true,
    counters := counters, shadow := none }

/-- The entry step of CREATE (R8). With no CREATE in hand it does not come about (log 2). -/
def execEntryStep (s : State) : Host.Outcome State Fault Refusal :=
  .next <|
    match s.window.work with
    | some (.create key length blocks check counters) =>
      { s with
        store := { s.store with catalog := insertEntry (newEntry key length blocks check counters) s.store.catalog } }.answer
          .ok (nat2 key ++ [nat1 blocks.length] ++ nat2 0 ++ halfBytes check)
    | _ => s

/-! ### INFO, LIST, STORE-SPACE (R11 to R13) -/

/-- The data of an INFO answer (R11). -/
def infoData (e : Entry) : List Byte :=
  [flag1 e.isOpen] ++ nat2 e.length ++ nat2 e.generation ++
    [flag1 e.damage, flag1 e.audited, nat1 e.counters.length, nat1 e.blocks.length] ++
    (match e.shadow with
     | some sh => nat2 sh.newLength ++ [flag1 sh.copyIn]
     | none => nat2 0 ++ [0])

/-- INFO (R11). -/
def execInfo (key : Half) (s : State) : Host.Outcome State Fault Refusal :=
  .next <| submit (requestBytes (.info key))
    (fun _ s => s.onRecord (badKey key) key fun e => s.answer .ok (infoData e)) s

/-- The eight bytes of a catalog line (11.4, Catalog line). -/
def catalogLine (e : Entry) : List Byte :=
  nat2 e.key ++ nat2 e.length ++ nat2 e.generation ++
    [flag1 e.isOpen <<< 7 ||| flag1 e.damage <<< 6 ||| flag1 e.audited <<< 5 ||| nat1 e.counters.length, 0]

/-- The records after a key, ascending (R12). -/
def Store.after (st : Store) (after : Nat) : List Entry := st.catalog.filter fun e => decide (after < e.key)

/-- The key of the last line, 0 when there are none (R12). -/
def lastKey (lines : List Entry) : Nat := (lines.getLast?.map fun e => e.key).getD 0

/-- LIST (R12). With no line placed the further-entries flag is clear: no record has a key above the after key (log 33). -/
def execList (after : Half) (s : State) : Host.Outcome State Fault Refusal :=
  .next <| submit (requestBytes (.list after))
    (fun _ s =>
      let lines := (s.store.after after.toNat).take 7
      { s with window := s.window.fillBuffer (lines.flatMap catalogLine) }.answer .ok
        ([nat1 lines.length] ++ nat2 (lastKey lines) ++
          [flag1 (decide (7 < (s.store.after after.toNat).length))])) s

/-- STORE-SPACE (R13). -/
def execStoreSpace (s : State) : Host.Outcome State Fault Refusal :=
  .next <| submit (requestBytes .storeSpace)
    (fun _ s =>
      s.answer .ok (nat2 s.store.freeBlocks.length ++ [nat1 s.store.catalog.length, nat1 s.store.openCount])) s

/-! ### RETIRE (R14, R15) -/

/-- The retirement step: the entry leaves the catalog with its counters and blocks, and the engine takes the
record-retired message (R14, R15, R98). -/
def State.retireRecord (s : State) (key : Nat) : State :=
  { s with
    store := { s.store with catalog := s.store.catalog.filter fun e => e.key != key }
    engine := s.engine.retired key }

/-- RETIRE (R14). -/
def execRetire (key : Half) (s : State) : Host.Outcome State Fault Refusal :=
  .next <| submit (requestBytes (.retire key))
    (fun _ s => s.onRecord (badKey key) key fun e =>
      if e.isOpen then s.answer .isOpen []
      else (s.retireRecord key.toNat).holdWork (.retire key.toNat e.blocks.length)) s

/-- The RETIRE answer, given when no tend action naming the key is in flight (R15). -/
def execRetireAnswer (s : State) : Host.Outcome State Fault Refusal :=
  .next <|
    match s.window.work with
    | some (.retire key freed) =>
      if s.engine.tends.any fun t => t.key == key then s else s.answer .ok [nat1 freed]
    | _ => s

/-! ### OPEN-CHANGE (R20, R21) -/

/-- The checks of OPEN-CHANGE, in order (R20). -/
def openChecks (st : Store) (key newLength : Half) : List (Bool × Result) :=
  [ (badKey key, .range),
    (newLength == 0 || decide (Config.maxLength < newLength.toNat), .range),
    ((st.find key.toNat).isNone, .noRecord),
    ((st.find key.toNat).any Entry.isOpen, .isOpen),
    (decide (Config.openCapacity ≤ st.openCount), .openLimit),
    (st.lacksSpace (blocksFor newLength.toNat), .noSpace) ]

/-- The bytes the fill stage of OPEN-CHANGE writes into its blocks: with copy-in the committed bytes as held, up to the
shorter length, and 0 in every later byte (R21). -/
def shadowFill (m : Memory) (e : Entry) (newLength : Nat) (copyIn : Bool) : List Byte :=
  let copied := if copyIn then readPayload m e.blocks 0 (min e.length newLength) else []
  copied ++ List.replicate (blocksFor newLength * Config.blockSize - copied.length) 0

/-- The fill stage of OPEN-CHANGE (R21). -/
def State.fillOpen (s : State) (e : Entry) (newLength : Nat) (copyIn : Bool) : State :=
  let blocks := s.store.lowestFree (blocksFor newLength)
  let memory := writePayload s.store.memory blocks 0 (shadowFill s.store.memory e newLength copyIn)
  { s with store := { s.store with memory := memory } }.holdWork (.openFill e.key newLength copyIn blocks)

/-- OPEN-CHANGE (R20, R21). -/
def execOpenChange (key newLength : Half) (copyIn : Byte) (s : State) : Host.Outcome State Fault Refusal :=
  .next <| submit (requestBytes (.openChange key newLength copyIn))
    (fun _ s =>
      match firstFailing (openChecks s.store key newLength), s.store.find key.toNat with
      | some r, _ => s.answer r []
      | none, none => s.answer .noRecord []
      | none, some e =>
        if s.store.mustVerify e then s.holdWork (.openVerify key.toNat newLength.toNat (copyIn != 0))
        else s.fillOpen e newLength.toNat (copyIn != 0)) s

/-- The entry step of OPEN-CHANGE (R21). -/
def execOpenChangeEntry (s : State) : Host.Outcome State Fault Refusal :=
  .next <|
    match s.window.work with
    | some (.openFill key newLength copyIn blocks) =>
      match s.store.find key with
      | some e =>
        { s with
          store := s.store.update key fun e =>
            { e with shadow := some { newLength := newLength, blocks := blocks, copyIn := copyIn } } }.answer .ok
          (nat2 key ++ nat2 newLength ++ [nat1 blocks.length, flag1 copyIn] ++ nat2 e.generation ++ [flag1 e.damage])
      | none => s
    | _ => s

/-! ### WRITE-PIECE and READ-PIECE (R23 to R26) -/

/-- WRITE-PIECE (R23). -/
def execWritePiece (key offset : Half) (count : Byte) (s : State) : Host.Outcome State Fault Refusal :=
  .next <| submit (requestBytes (.writePiece key offset count))
    (fun _ s =>
      s.onRecord (badKey key || count == 0 || decide (Config.pieceMax < count.toNat)) key fun e =>
        match e.shadow with
        | none => s.answer .notOpen []
        | some sh =>
          if sh.newLength < offset.toNat + count.toNat then s.answer .range []
          else
            { s with
              store :=
                { s.store with
                  memory :=
                    writePayload s.store.memory sh.blocks offset.toNat (s.window.buffer.items.take count.toNat) } }.answer
              .ok (halfBytes key ++ halfBytes offset ++ [count])) s

/-- The bytes of a piece delivered into the transfer buffer, and the READ-PIECE answer (R25). -/
def State.deliverPiece (s : State) (e : Entry) (blocks : List Block) (offset count : Nat) (source : Byte) : State :=
  { s with window := s.window.fillBuffer (readPayload s.store.memory blocks offset count) }.answer .ok
    (nat2 e.key ++ nat2 offset ++ [nat1 count, source] ++ nat2 e.generation ++ [flag1 e.damage])

/-- READ-PIECE (R24 to R26). -/
def execReadPiece (key offset : Half) (count source : Byte) (s : State) : Host.Outcome State Fault Refusal :=
  .next <| submit (requestBytes (.readPiece key offset count source))
    (fun _ s =>
      s.onRecord
        (badKey key || count == 0 || decide (Config.pieceMax < count.toNat) || decide (1 < source.toNat)) key fun e =>
        if source = 0 then
          if e.length < offset.toNat + count.toNat then s.answer .range []
          else if offset.toNat = 0 || s.store.mustVerify e then
            s.holdWork (.readVerify key.toNat offset.toNat count.toNat)
          else s.deliverPiece e e.blocks offset.toNat count.toNat 0
        else
          match e.shadow with
          | none => s.answer .notOpen []
          | some sh =>
            if sh.newLength < offset.toNat + count.toNat then s.answer .range []
            else s.deliverPiece e sh.blocks offset.toNat count.toNat 1) s

/-- The completion of a verification inside a request: the marks are set, and the request goes on, an OPEN-CHANGE to its
fill stage and a READ-PIECE to its delivery (R21, R26, R34, R36). -/
def execVerification (s : State) : Host.Outcome State Fault Refusal :=
  .next <|
    match s.window.work with
    | some (.openVerify key newLength copyIn) =>
      match s.store.find key with
      | some e => { s with store := s.store.verify key }.fillOpen e newLength copyIn
      | none => s
    | some (.readVerify key offset count) =>
      match s.store.find key with
      | some e =>
        { s with store := s.store.verify key }.deliverPiece (s.store.verifiedEntry e) e.blocks offset count 0
      | none => s
    | _ => s

/-! ### Closing and abandoning (R28 to R33) -/

/-- The check of a shadow over key, new length and shadow bytes (R28). -/
def Store.shadowCheck (st : Store) (key : Nat) (sh : Shadow) : Half :=
  recordCheck key sh.newLength (readPayload st.memory sh.blocks 0 sh.newLength)

/-- The check stage of CLOSE-ALL: the computed check of every OPEN record, in ascending key order (R30). -/
def Store.openChecks (st : Store) : List (Nat × Half) :=
  st.catalog.filterMap fun e => e.shadow.map fun sh => (e.key, st.shadowCheck e.key sh)

/-- CLOSE-CHANGE: its checks and its check stage (R28). -/
def execCloseChange (key : Half) (s : State) : Host.Outcome State Fault Refusal :=
  .next <| submit (requestBytes (.closeChange key))
    (fun _ s => s.onRecord (badKey key) key fun e =>
      match e.shadow with
      | none => s.answer .notOpen []
      | some sh => s.holdWork (.close key.toNat (s.store.shadowCheck key.toNat sh))) s

/-- CLOSE-ALL: with no open change it answers at once; otherwise its check stage (R30). -/
def execCloseAll (s : State) : Host.Outcome State Fault Refusal :=
  .next <| submit (requestBytes .closeAll)
    (fun _ s => if s.store.openCount = 0 then s.answer .ok [0] else s.holdWork (.closeAll s.store.openChecks)) s

/-- An entry after the swap stage with its computed check; a LIVE entry is left as it is (R29). -/
def Entry.swapped (check : Half) (e : Entry) : Entry :=
  match e.shadow with
  | none => e
  | some sh =>
    { e with
      blocks := sh.blocks
      length := sh.newLength
      generation := (e.generation + 1) % 65536
      check := check
      damage := false
      audited := true
      shadow := none }

/-- The swap stage over the held checks, one indivisible step (R29, R30). -/
def Store.swap (st : Store) (checks : List (Nat × Half)) : Store :=
  checks.foldl (fun st c => st.update c.1 (Entry.swapped c.2)) st

/-- The generation of a key, 0 if it is not in the catalog. -/
def Store.generationOf (st : Store) (key : Nat) : Nat := ((st.find key).map fun e => e.generation).getD 0

/-- The swap stage of a commit and its answer (R29, R30). -/
def execSwapStage (s : State) : Host.Outcome State Fault Refusal :=
  .next <|
    match s.window.work with
    | some (.close key check) =>
      match s.store.find key with
      | some e =>
        let e' := e.swapped check
        { s with store := s.store.swap [(key, check)] }.answer .ok
          (nat2 key ++ nat2 e'.generation ++ nat2 e'.length ++ halfBytes check ++
            [nat1 e'.blocks.length, nat1 e.blocks.length])
      | none => s
    | some (.closeAll checks) =>
      let store := s.store.swap checks
      { s with store := store }.answer .ok
        ([nat1 checks.length] ++ checks.flatMap fun (c : Nat × Half) => nat2 c.1 ++ nat2 (store.generationOf c.1))
    | _ => s

/-- An entry with its open change abandoned (R33, R41). -/
def Entry.abandoned (e : Entry) : Entry := { e with shadow := none }

/-- ABANDON-CHANGE (R33). -/
def execAbandonChange (key : Half) (s : State) : Host.Outcome State Fault Refusal :=
  .next <| submit (requestBytes (.abandonChange key))
    (fun _ s => s.onRecord (badKey key) key fun e =>
      match e.shadow with
      | none => s.answer .notOpen []
      | some sh =>
        { s with store := s.store.update key.toNat Entry.abandoned }.answer .ok
          (halfBytes key ++ [nat1 sh.blocks.length])) s

/-- Every open change abandoned and counted in the changes-lost mark, held at 4 (R41). -/
def Store.abandonAll (st : Store) : Store :=
  { st with catalog := st.catalog.map Entry.abandoned, changesLost := min 4 (st.changesLost + st.openCount) }

/-! ### The audit (R37 to R40) -/

/-- The audit starts: position 0, every audited mark clear; an empty catalog completes it at its start (R37, R39). -/
def Store.startAudit (st : Store) : Store :=
  { st with
    catalog := st.catalog.map fun e => { e with audited := false }
    auditFlag := !st.catalog.isEmpty
    auditPosition := 0 }

/-- The record with the smallest key greater than the audit position (R37). -/
def Store.auditNext (st : Store) : Option Entry := st.catalog.find? fun e => decide (st.auditPosition < e.key)

/-- The audit can step: it is in progress, the main domain is up, and no request is in the store's hand (R38, R40). -/
def State.auditRuns (s : State) : Bool :=
  s.store.auditFlag && s.mainUp && !(s.window.work.any Work.ofStore)

/-- One step of the audit: the next record is passed over or verified and the position moves to its key; with no record
beyond the position the audit completes and raises KEEP if a damage mark is held (R37, R39). -/
def execAuditStep (s : State) : Host.Outcome State Fault Refusal :=
  .next <|
    if s.auditRuns then
      match s.store.auditNext with
      | some e =>
        let store := if e.audited then s.store else s.store.verify e.key
        { s with store := { store with auditPosition := e.key } }
      | none =>
        { s with
          store := { s.store with auditFlag := false }
          notices := s.notices.raiseIf s.store.anyDamage Notices.raiseDamageFound }
    else s

end Sys2Proof.Machine
end

