-- ==== Sys2Proof/Machine/Counters.lean ====
section
/-! DEFINITION. Tended counters: the console requests of section 3.2 and the tend actions of section 3.3. -/

namespace Sys2Proof.Machine

open Sys2Proof

/-- A counter with a computed value bounded and stored (R44). -/
def Counter.bound (c : Counter) (computed : Int) : Counter := { c with value := clamp c.floor c.ceiling computed }

/-- A counter of an entry changed. -/
def Entry.setCounter (e : Entry) (index : Nat) (c : Counter) : Entry := { e with counters := e.counters.set index c }

/-- The answer fields of a counter request (R46). -/
def counterData (key : Half) (index : Byte) (count : Nat) (before after : Counter) (limit : Bool) : List Byte :=
  halfBytes key ++ [index, nat1 count] ++ int2 before.value ++ int2 after.value ++ int2 after.floor ++
    int2 after.ceiling ++ [flag1 limit]

/-- A counter request past its RANGE checks: `act` gives, for the counter found, the result, the counter after the step
and the limit flag, and the request reads and changes the counter in one step (R46). -/
def State.onCounter (s : State) (bad : Bool) (key : Half) (index : Byte)
    (act : Counter → Result × Counter × Bool) : State :=
  s.onRecord bad key fun e =>
    match e.counters[index.toNat]? with
    | none => s.answer .noCounter [nat1 e.counters.length]
    | some c =>
      { s with store := s.store.update key.toNat fun e => e.setCounter index.toNat (act c).2.1 }.answer (act c).1
        (counterData key index e.counters.length c (act c).2.1 (act c).2.2)

/-- A new value computed at full width, bounded, with its limit flag (R44). -/
def boundedTo (c : Counter) (computed : Int) : Result × Counter × Bool :=
  (.ok, c.bound computed, limitFlag computed (c.bound computed).value)

/-- READ-COUNTER (R47). -/
def readCounterStep (c : Counter) : Result × Counter × Bool := (.ok, c, false)

/-- ADJUST-COUNTER (R48). -/
def adjustCounterStep (delta : Int) (c : Counter) : Result × Counter × Bool := boundedTo c (c.value + delta)

/-- SET-COUNTER (R49). -/
def setCounterStep (v : Int) (c : Counter) : Result × Counter × Bool := boundedTo c v

/-- SWAP-COUNTER (R50). -/
def swapCounterStep (expected new : Int) (c : Counter) : Result × Counter × Bool :=
  if c.value = expected then boundedTo c new else (.mismatch, c, false)

/-- SET-BOUNDS (R51). -/
def setBoundsStep (floor ceiling : Int) (c : Counter) : Result × Counter × Bool :=
  boundedTo { c with floor := floor, ceiling := ceiling } c.value

/-- READ-COUNTER (R46, R47). -/
def execReadCounter (key : Half) (index : Byte) (s : State) : Host.Outcome State Fault Refusal :=
  .next <| submit (requestBytes (.readCounter key index))
    (fun _ s => s.onCounter (badKey key) key index readCounterStep) s

/-- ADJUST-COUNTER (R46, R48). -/
def execAdjustCounter (key : Half) (index : Byte) (delta : Half) (s : State) : Host.Outcome State Fault Refusal :=
  .next <| submit (requestBytes (.adjustCounter key index delta))
    (fun _ s => s.onCounter (badKey key) key index (adjustCounterStep delta.toInt)) s

/-- SET-COUNTER (R46, R49). -/
def execSetCounter (key : Half) (index : Byte) (value : Half) (s : State) : Host.Outcome State Fault Refusal :=
  .next <| submit (requestBytes (.setCounter key index value))
    (fun _ s => s.onCounter (badKey key) key index (setCounterStep value.toInt)) s

/-- SWAP-COUNTER (R46, R50). -/
def execSwapCounter (key : Half) (index : Byte) (expected new : Half) (s : State) :
    Host.Outcome State Fault Refusal :=
  .next <| submit (requestBytes (.swapCounter key index expected new))
    (fun _ s => s.onCounter (badKey key) key index (swapCounterStep expected.toInt new.toInt)) s

/-- SET-BOUNDS (R46, R51). -/
def execSetBounds (key : Half) (index : Byte) (floor ceiling : Half) (s : State) : Host.Outcome State Fault Refusal :=
  .next <| submit (requestBytes (.setBounds key index floor ceiling))
    (fun _ s => s.onCounter (badKey key || decide (ceiling.toInt < floor.toInt)) key index
      (setBoundsStep floor.toInt ceiling.toInt)) s

/-- The counter a tend action names, if the key is in the catalog and the index is below its counter count (R53, R54). -/
def Store.counterAt (st : Store) (key index : Nat) : Option Counter :=
  (st.find key).bind fun e => e.counters[index]?

/-- The store takes a tend action: the amount is added and bounded, or the action is absent (R53, R54). -/
def Store.tend (st : Store) (t : TendAction) : Store × TendResult :=
  match st.counterAt t.key t.index with
  | none => (st, .absent)
  | some c =>
    let c' := c.bound (c.value + t.amount)
    (st.update t.key fun e => e.setCounter t.index c', .applied c'.value)

/-- The record store takes the oldest tend action in flight and answers it, in every state of the running keep domain (R53
to R55). With none in flight it does not come about (log 2). An action left in flight by a RETIRE that power-going or a main
reset cut off before its answer is taken as any other, against the record its key then names, if any (log 32). -/
def execTendAction (s : State) : Host.Outcome State Fault Refusal :=
  .next <|
    match s.power.keepRuns, s.engine.tends with
    | true, t :: rest =>
      { s with
        store := (s.store.tend t).1
        engine :=
          { s.engine with
            tends := rest
            answers :=
              s.engine.answers ++ [{ slot := t.slot, tag := t.tag, key := t.key, result := (s.store.tend t).2 }] } }
    | true, [] => s
    | false, _ => s

/-- The event an absent answer finds: one with the answer's tag whose action is still TEND naming its key (R97). -/
def Event.lostTarget (a : TendAnswer) (e : Event) : Event := if e.tag = a.tag then e.retarget a.key else e

/-- The table after a tend answer: "applied" leaves it, "absent" turns the event that still holds the action (R97). -/
def Engine.answeredSlots (en : Engine) (a : TendAnswer) : Table (Option Event) 48 :=
  match a.result with
  | .applied _ => en.slots
  | .absent => en.slots.set a.slot ((en.slots.get a.slot).map (Event.lostTarget a))

/-- The engine takes the oldest tend answer in flight (R97). With none in flight it does not come about (log 2). -/
def execTendAnswer (s : State) : Host.Outcome State Fault Refusal :=
  .next <|
    match s.power.keepRuns, s.engine.answers with
    | true, a :: rest =>
      { s with engine := { s.engine with slots := s.engine.answeredSlots a, answers := rest } }
    | true, [] => s
    | false, _ => s

end Sys2Proof.Machine
end

