-- ==== Sys2Proof/Machine/Events.lean ====
section
/-! DEFINITION. The requests of the event engine: arming, finding, examining, cancelling, reading and acknowledging events,
and the due threshold (chapter 5). -/

namespace Sys2Proof.Machine

open Sys2Proof

/-- The code of an event state (R195): 0 FREE, 1 ARMED, 2 DUE. -/
def EventState.code : EventState → Byte
  | .armed => 1
  | .due => 2

/-- The code of an event kind (R195). -/
def Schedule.code : Schedule → Byte
  | .elapsed .. => 0
  | .daily .. => 1
  | .wallOnce .. => 2

/-- The schedule point of an arming answer (R83, R195). -/
def Schedule.point : Schedule → List Byte
  | .elapsed next _ => nat5 next
  | .daily anchor period _ => int4 anchor ++ int4 (anchor + period)
  | .wallOnce due => nat4 due

/-- The action an arming's operand bytes ask for (R82). -/
def armAction (a : ActionBytes) : Action :=
  if a.action = 1 then .tend a.key.toNat a.index.toNat a.step.toInt else .notify

/-- The checks every arming applies, in order; `badSchedule` is whether a schedule operand is out of its range, `needsWall`
whether the kind depends on the wall clock (R82). -/
def armChecks (s : State) (tag : Half) (badSchedule needsWall : Bool) (a : ActionBytes) : List (Bool × Result) :=
  [ (tag == 0 || badSchedule || decide (1 < a.action.toNat), .range),
    (a.action == 1 && badKey a.key, .range),
    (needsWall && s.calendar.state == .unset, .unset),
    ((s.engine.slotOfTag tag.toNat).isSome, .tagTaken),
    (s.engine.freeSlot.isNone, .tableFull),
    (a.action == 1 && (s.store.find a.key.toNat).isNone, .noRecord),
    (a.action == 1 && (s.store.counterAt a.key.toNat a.index.toNat).isNone, .noCounter) ]

/-- The event an arming step fills its slot with (R83). -/
def armedEvent (tag : Half) (schedule : Schedule) (a : ActionBytes) : Event :=
  { tag := tag.toNat, state := .armed, schedule := schedule, finished := false, pendingCount := 0, firstDue := 0,
    action := armAction a, targetLost := false }

/-- The answer of an arming, from the slot as the evaluation left it (R83). -/
def State.armAnswer (s : State) (slot : Slot) : State :=
  match s.engine.slots.get slot with
  | some e => s.answer .ok ([nat1 slot.val, e.state.code, nat1 e.pendingCount] ++ e.schedule.point)
  | none => s

/-- The arming step, the evaluation that arming performs, and the answer (R83). -/
def State.arm (s : State) (slot : Slot) (e : Event) : State :=
  (({ s with engine := { s.engine with slots := s.engine.slots.set slot (some e) } }).evaluate).armAnswer slot

/-- An arming request: its checks, then its step in the lowest-numbered FREE slot (R82, R83). -/
def State.armRequest (s : State) (tag : Half) (badSchedule needsWall : Bool) (schedule : Schedule)
    (a : ActionBytes) : State :=
  match firstFailing (armChecks s tag badSchedule needsWall a), s.engine.freeSlot with
  | some r, _ => s.answer r []
  | none, none => s.answer .tableFull []
  | none, some slot => s.arm slot (armedEvent tag schedule a)

/-- ARM-ELAPSED (R84). -/
def execArmElapsed (tag : Half) (first interval : BitVec 24) (action : ActionBytes) (s : State) :
    Host.Outcome State Fault Refusal :=
  .next <| submit (requestBytes (.armElapsed tag first interval action))
    (fun _ s =>
      s.armRequest tag (first == 0) false
        (.elapsed (s.calendar.trueSecond + first.toNat) interval.toNat) action) s

/-- ARM-DAILY (R85). -/
def execArmDaily (tag : Half) (period first : Byte) (action : ActionBytes) (s : State) :
    Host.Outcome State Fault Refusal :=
  .next <| submit (requestBytes (.armDaily tag period first action))
    (fun _ s =>
      s.armRequest tag (period == 0) true
        (.daily (s.calendar.gameDay + first.toNat - period.toNat) period.toNat
          (s.calendar.gameDay + first.toNat - period.toNat)) action) s

/-- ARM-WALL (R86). -/
def execArmWall (tag : Half) (due : BitVec 32) (action : ActionBytes) (s : State) : Host.Outcome State Fault Refusal :=
  .next <| submit (requestBytes (.armWall tag due action))
    (fun _ s =>
      s.armRequest tag (decide (Config.topWall < due.toNat)) true (.wallOnce due.toNat) action) s

/-- FIND-EVENT (R88). -/
def execFindEvent (tag : Half) (s : State) : Host.Outcome State Fault Refusal :=
  .next <| submit (requestBytes (.findEvent tag))
    (fun _ s =>
      if tag = 0 then s.answer .range []
      else
        match s.engine.slotOfTag tag.toNat with
        | none => s.answer .noEvent []
        | some slot =>
          match s.engine.slots.get slot with
          | none => s.answer .noEvent []
          | some e => s.answer .ok [nat1 slot.val, e.state.code, e.schedule.code]) s

/-- A request on a slot: RANGE above 47 or on another failing operand, NO-EVENT for a FREE slot (R89, R90, R102). -/
def State.onSlot (s : State) (bad : Bool) (slot : Byte) (act : Slot → Event → State) : State :=
  if h : slot.toNat < 48 then
    if bad then s.answer .range []
    else
      match s.engine.slots.get ⟨slot.toNat, h⟩ with
      | none => s.answer .noEvent []
      | some e => act ⟨slot.toNat, h⟩ e
  else s.answer .range []

/-- The finished and target-lost marks as a flags byte (11.4). -/
def Event.marks (e : Event) : Byte := bits e.finished e.targetLost false false false false false false

/-- The schedule fields of an event record from offset 75, those of other kinds 0 (R89, 11.4). -/
def Schedule.record : Schedule → List Byte
  | .elapsed next interval => nat5 next ++ nat3 interval ++ int4 0 ++ [0] ++ int4 0 ++ nat4 0
  | .daily anchor period lastServed =>
    nat5 0 ++ nat3 0 ++ int4 anchor ++ [nat1 period] ++ int4 lastServed ++ nat4 0
  | .wallOnce due => nat5 0 ++ nat3 0 ++ int4 0 ++ [0] ++ int4 0 ++ nat4 due

/-- The action fields of an event record from offset 96 (11.4). -/
def Action.record : Action → List Byte
  | .notify => [0] ++ nat2 0 ++ [0, 0]
  | .tend key index step => [1] ++ nat2 key ++ [nat1 index, BitVec.ofInt 8 step]

/-- The event record placed in the transfer buffer (11.4, Event record). -/
def Event.record (slot : Slot) (e : Event) : List Byte :=
  [nat1 slot.val] ++ nat2 e.tag ++ [e.state.code, e.schedule.code, e.marks, nat1 e.pendingCount] ++
    nat4 e.firstDue ++ e.schedule.record ++ e.action.record

/-- EVENT-INFO (R89). -/
def execEventInfo (slot : Byte) (s : State) : Host.Outcome State Fault Refusal :=
  .next <| submit (requestBytes (.eventInfo slot))
    (fun _ s => s.onSlot false slot fun i e =>
      { s with window := s.window.fillBuffer (e.record i) }.answer .ok
        ([nat1 i.val, e.state.code] ++ nat2 e.tag)) s

/-- The engine with a slot FREE and off the due list (R90, R102). -/
def Engine.free (en : Engine) (i : Slot) : Engine :=
  { en with slots := en.slots.set i none, dueList := en.dueList.filter fun j => j != i }

/-- CANCEL-EVENT (R90). -/
def execCancelEvent (slot : Byte) (s : State) : Host.Outcome State Fault Refusal :=
  .next <| submit (requestBytes (.cancelEvent slot))
    (fun _ s => s.onSlot false slot fun i e =>
      { s with engine := s.engine.free i }.answer .ok (nat2 e.tag ++ [e.state.code, nat1 e.pendingCount])) s

/-- The nine bytes of a due entry (11.4, Due entry). -/
def dueEntry (slots : Table (Option Event) 48) (i : Slot) : List Byte :=
  match slots.get i with
  | some e => [nat1 i.val] ++ nat2 e.tag ++ [nat1 e.pendingCount, e.marks] ++ nat4 e.firstDue
  | none => []

/-- READ-DUE (R101). -/
def execReadDue (start : Byte) (s : State) : Host.Outcome State Fault Refusal :=
  .next <| submit (requestBytes (.readDue start))
    (fun _ s =>
      let entries := (s.engine.dueList.drop start.toNat).take 6
      { s with window := s.window.fillBuffer (entries.flatMap (dueEntry s.engine.slots)) }.answer .ok
        [nat1 entries.length, nat1 s.engine.dueList.length]) s

/-- An acknowledged event's slot: DUE with its pending count lowered while that stays above 0; at 0, FREE if it is
finished and ARMED otherwise (R102). -/
def Engine.acknowledge (en : Engine) (i : Slot) (e : Event) (n : Nat) : Engine :=
  if n < e.pendingCount then
    { en with slots := en.slots.set i (some { e with pendingCount := e.pendingCount - n }) }
  else if e.finished then en.free i
  else
    { en with
      slots := en.slots.set i (some { e with pendingCount := 0, state := .armed })
      dueList := en.dueList.filter fun j => j != i }

/-- The state of a slot, 0 for FREE (R195). -/
def Engine.stateCode (en : Engine) (i : Slot) : Byte :=
  match en.slots.get i with
  | some e => e.state.code
  | none => 0

/-- ACK-DUE (R102). The target-lost mark answered is the mark as it stood before the step, also where the step makes the
slot FREE (log 34). -/
def execAckDue (slot count : Byte) (s : State) : Host.Outcome State Fault Refusal :=
  .next <| submit (requestBytes (.ackDue slot count))
    (fun _ s => s.onSlot (count == 0) slot fun i e =>
      if e.state = .armed then s.answer .notDue []
      else
        let engine := s.engine.acknowledge i e count.toNat
        { s with engine := engine }.answer .ok
          (nat2 e.tag ++ [nat1 e.pendingCount, nat1 (e.pendingCount - count.toNat), engine.stateCode i,
            flag1 e.targetLost])) s

/-- SET-DUE-THRESHOLD (R104). -/
def execSetDueThreshold (threshold : Byte) (s : State) : Host.Outcome State Fault Refusal :=
  .next <| submit (requestBytes (.setDueThreshold threshold))
    (fun _ s =>
      let t := min 48 (max 1 threshold.toNat)
      { s with engine := { s.engine with threshold := t } }.answer .ok [nat1 t, nat1 s.engine.dueList.length]) s

end Sys2Proof.Machine
end

