-- ==== Sys2Proof/Machine/Voices.lean ====
section
/-! DEFINITION. Voices and note queues: the voice requests, and the progression of a voice at a sound tick (chapter 6). -/

namespace Sys2Proof.Machine

open Sys2Proof

/-! ### Requests -/

/-- The code of a voice state (R123). -/
def VoiceState.code : VoiceState → Byte
  | .idle => 0
  | .playing => 1
  | .starved => 2
  | .held _ => 3

/-- The sound engine with one voice changed. -/
def Sound.setVoice (so : Sound) (v : VoiceNo) (voice : Voice) : Sound := { so with voices := so.voices.set v voice }

/-- The sound engine with a change made to every voice a mask names. -/
def Sound.onMask (so : Sound) (mask : Byte) (f : Voice → Voice) : Sound :=
  { so with voices := Table.tabulate 8 fun v => if named mask v then f (so.voices.get v) else so.voices.get v }

/-- The mask of the named voices for which a condition holds. -/
def Sound.maskWhere (so : Sound) (mask : Byte) (p : Voice → Bool) : Byte :=
  maskOf fun v => named mask v && p (so.voices.get v)

/-- A refill threshold byte rounded down to a multiple of 4, at most 12 (R114). -/
def refillOf (b : Byte) : Nat := min 12 (b.toNat / 4 * 4)

/-- The code of a group (R195). -/
def Group.code : Group → Byte
  | .a => 0
  | .b => 1

/-- The code of a conditioning (R195). -/
def Conditioning.code : Conditioning → Byte
  | .silence => 0
  | .hold => 1

/-- SET-VOICE (R114). -/
def execSetVoice (voice group conditioning refill : Byte) (s : State) : Host.Outcome State Fault Refusal :=
  .next <| submit (requestBytes (.setVoice voice group conditioning refill))
    (fun _ s =>
      if h : voice.toNat < 8 then
        if decide (1 < group.toNat) || decide (1 < conditioning.toNat) then s.answer .range []
        else
          let v := { s.sound.voices.get ⟨voice.toNat, h⟩ with
            group := if group = 0 then .a else .b
            conditioning := if conditioning = 0 then .silence else .hold
            refill := refillOf refill }
          { s with sound := s.sound.setVoice ⟨voice.toNat, h⟩ v }.answer .ok
            [v.group.code, v.conditioning.code, nat1 v.refill]
      else s.answer .range []) s

/-- A voice's state after an entry has joined its queue: STARVED becomes PLAYING, and so does the prior state of a voice
HELD from STARVED (R110). -/
def VoiceState.fed : VoiceState → VoiceState
  | .idle => .idle
  | .playing => .playing
  | .starved => .playing
  | .held _ => .held .playing

/-- Entries appended to a voice's queue as room allows, oldest first (R109, R110). -/
def Voice.enqueue (v : Voice) (notes : List Note) : Voice :=
  let accepted := notes.take (Config.queueCapacity - v.queue.length)
  { v with
    queue := v.queue ++ accepted
    state := if accepted.isEmpty then v.state else v.state.fed }

/-- The position, counted from 1, of the first entry whose timbre code names no timbre (R109). -/
def badEntry : Nat → List NoteBytes → Option Nat
  | _, [] => none
  | position, b :: rest => if (timbreOf b.timbre).isNone then some position else badEntry (position + 1) rest

/-- QUEUE-NOTES (R109, R110). -/
def execQueueNotes (voice count : Byte) (note1 note2 note3 : NoteBytes) (s : State) :
    Host.Outcome State Fault Refusal :=
  .next <| submit (requestBytes (.queueNotes voice count note1 note2 note3))
    (fun _ s =>
      if h : voice.toNat < 8 then
        if count.toNat = 0 ∨ 3 < count.toNat then s.answer .range []
        else
          let entries := [note1, note2, note3].take count.toNat
          match badEntry 1 entries with
          | some position => s.answer .range [nat1 position]
          | none =>
            let v := s.sound.voices.get ⟨voice.toNat, h⟩
            let v' := v.enqueue (entries.filterMap noteOf)
            { s with sound := s.sound.setVoice ⟨voice.toNat, h⟩ v' }.answer
              (if v'.queue.length = v.queue.length + count.toNat then .ok else .part)
              [voice, nat1 (v'.queue.length - v.queue.length), nat1 v'.queue.length, v'.state.code]
      else s.answer .range []) s

/-- START-VOICES (R111). -/
def execStartVoices (mask : Byte) (s : State) : Host.Outcome State Fault Refusal :=
  .next <| submit (requestBytes (.startVoices mask))
    (fun _ s =>
      { s with
        sound := s.sound.onMask mask fun (v : Voice) => if v.state = VoiceState.idle then { v with startMark := true } else v }.answer .ok
        [s.sound.maskWhere mask fun (v : Voice) => v.state == VoiceState.idle]) s

/-- A voice that HOLD-VOICES acts on: PLAYING or STARVED (R112). -/
def VoiceState.canHold : VoiceState → Option PriorState
  | .idle => none
  | .playing => some .playing
  | .starved => some .starved
  | .held _ => none

/-- A voice held from the state it was in (R112). -/
def Voice.hold (v : Voice) : Voice :=
  match v.state.canHold with
  | some prior => { v with state := .held prior }
  | none => v

/-- HOLD-VOICES (R112). -/
def execHoldVoices (mask : Byte) (s : State) : Host.Outcome State Fault Refusal :=
  .next <| submit (requestBytes (.holdVoices mask))
    (fun _ s =>
      { s with sound := s.sound.onMask mask Voice.hold }.answer .ok
        [s.sound.maskWhere mask fun (v : Voice) => v.state.canHold.isSome]) s

/-- The state a release gives a HELD voice (R112). -/
def VoiceState.released : VoiceState → Option VoiceState
  | .held .playing => some .playing
  | .held .starved => some .starved
  | .idle => none
  | .playing => none
  | .starved => none

/-- A HELD voice returned to its prior state (R112). -/
def Voice.release (v : Voice) : Voice :=
  match v.state.released with
  | some state => { v with state := state }
  | none => v

/-- RELEASE-VOICES (R112). -/
def execReleaseVoices (mask : Byte) (s : State) : Host.Outcome State Fault Refusal :=
  .next <| submit (requestBytes (.releaseVoices mask))
    (fun _ s =>
      { s with sound := s.sound.onMask mask Voice.release }.answer .ok
        [s.sound.maskWhere mask fun (v : Voice) => v.state.released.isSome]) s

/-- A voice stopped: its queue emptied, its note dropped, its marks cleared, IDLE (R113). -/
def Voice.stop (v : Voice) : Voice :=
  { v with queue := [], current := none, spent := false, startMark := false, state := .idle }

/-- The queue entries the named voices hold (R113). -/
def Sound.queuedIn (so : Sound) (mask : Byte) : Nat :=
  ((List.finRange 8).map fun v => if named mask v then (so.voices.get v).queue.length else 0).sum

/-- STOP-VOICES (R113). -/
def execStopVoices (mask : Byte) (s : State) : Host.Outcome State Fault Refusal :=
  .next <| submit (requestBytes (.stopVoices mask))
    (fun _ s =>
      { s with sound := s.sound.onMask mask Voice.stop }.answer .ok
        [s.sound.maskWhere mask fun (v : Voice) => v.state != VoiceState.idle, nat1 (s.sound.queuedIn mask)]) s

/-- The three bytes of a voice in a READ-VOICES answer (R123). -/
def Voice.reportBytes (v : Voice) : List Byte :=
  [v.state.code, nat1 v.queue.length,
    match v.current with
    | some n => n.timbre.code
    | none => 255]

/-- READ-VOICES (R123). -/
def execReadVoices (s : State) : Host.Outcome State Fault Refusal :=
  .next <| submit (requestBytes .readVoices)
    (fun _ s =>
      { s with sound := { s.sound with clipped := 0 } }.answer .ok
        (s.sound.voices.items.flatMap Voice.reportBytes ++ [maskOf fun v => (s.sound.voices.get v).startMark] ++
          nat2 s.sound.clipped)) s

/-- READ-MARKERS (R121). -/
def execReadMarkers (s : State) : Host.Outcome State Fault Refusal :=
  .next <| submit (requestBytes .readMarkers)
    (fun _ s =>
      { s with sound := { s.sound with markers := [], dropped := false } }.answer .ok
        ([nat1 s.sound.markers.length, flag1 s.sound.dropped] ++ s.sound.markers)) s

/-! ### Progression at a sound tick (R111, R115 to R117) -/

/-- The head of the queue becomes current (R116). -/
def Voice.becomeCurrent (v : Voice) (n : Note) (rest : List Note) : Voice :=
  { v with
    state := .playing
    queue := rest
    current := some n
    spent := false
    phase := 0
    volume := n.startVolume
    lengthCounter := n.length
    paceCounter := n.pace.val * 4
    noise := if n.timbre = .noiseLong ∨ n.timbre = .noiseShort then 0x7FFF else v.noise }

/-- The volume one step towards 15 or towards 0 (R115). -/
def stepVolume (up : Bool) (v : Fin 16) : Fin 16 :=
  if up then ⟨min 15 (v.val + 1), by omega⟩ else ⟨v.val - 1, by omega⟩

/-- The envelope step of a tick (R115, step 2). -/
def Voice.envelope (v : Voice) : Voice :=
  match v.current with
  | none => v
  | some n =>
    if n.pace.val = 0 then v
    else if v.paceCounter - 1 = 0 then
      { v with paceCounter := n.pace.val * 4, volume := stepVolume n.envelopeUp v.volume }
    else { v with paceCounter := v.paceCounter - 1 }

/-- The length step of a tick for a PLAYING voice, and whether its note ends (R115, step 1). -/
def Voice.lengthStep (v : Voice) : Voice × Bool :=
  match v.current with
  | none => (v, true)
  | some n =>
    if v.spent then (v, true)
    else if n.length = 0 then (v, !v.queue.isEmpty)
    else ({ v with lengthCounter := v.lengthCounter - 1 }, v.lengthCounter - 1 == 0)

/-- What a tick makes of a voice: the voice after it, the entry that became current if one did, and whether the voice
entered STARVED. -/
structure Progress where
  voice : Voice
  began : Option Note
  starved : Bool
deriving DecidableEq, Repr

/-- A voice whose note has ended, or which starts, takes the head of its queue or becomes STARVED with its note, if it has
one, spent (R111, R115 step 3, R117). -/
def Voice.takeNext (v : Voice) : Progress :=
  match v.queue with
  | n :: rest => { voice := v.becomeCurrent n rest, began := some n, starved := false }
  | [] => { voice := { v with state := .starved, spent := v.current.isSome }, began := none, starved := true }

/-- A voice at a sound tick (R111, R112, R115, R117). -/
def Voice.progress (v : Voice) : Progress :=
  match v.state with
  | .idle =>
    if v.startMark then { v with startMark := false }.takeNext
    else { voice := v, began := none, starved := false }
  | .held _ => { voice := v, began := none, starved := false }
  | .starved => { voice := v.envelope, began := none, starved := false }
  | .playing =>
    let stepped := v.lengthStep
    if stepped.2 then stepped.1.envelope.takeNext
    else { voice := stepped.1.envelope, began := none, starved := false }

/-- Markers delivered in order: each joins the tail while fewer than 8 stand, and is otherwise dropped (R120). -/
def Sound.deliver (so : Sound) (ids : List Byte) : Sound :=
  { so with
    markers := so.markers ++ ids.take (Config.markerCapacity - so.markers.length)
    dropped := so.dropped || decide (Config.markerCapacity < so.markers.length + ids.length) }

/-- The entries that become current at a tick, in ascending voice number (R116). -/
def Sound.beginning (so : Sound) : List Note := so.voices.items.filterMap fun (v : Voice) => v.progress.began

/-- The voices that enter STARVED at a tick (R117). -/
def Sound.starving (so : Sound) : Byte := maskOf fun v => (so.voices.get v).progress.starved

/-- The note progression of a sound tick: every voice moves, and the markers and cues of the notes that become current are
delivered and offered in ascending voice number (R115, R116, R120, R122). -/
def Sound.progression (so : Sound) : Sound :=
  let so' := { so with voices := so.voices.map fun (v : Voice) => v.progress.voice }
  { so'.deliver (so.beginning.filterMap Note.marker) with cues := so.cues ++ so.beginning.filterMap Note.cue }

end Sys2Proof.Machine
end

