-- ==== Sys2Proof/Machine/Synthesis.lean ====
section
/-! DEFINITION. Synthesis and the mix: samples, shares, slot values and frames (chapter 7), and the sound engine's part of
a frame event. -/

namespace Sys2Proof.Machine

open Sys2Proof

/-! ### Requests -/

/-- A byte taken as a wave sample, a byte above 15 as 15 (R132). -/
def sampleOf (b : Byte) : Fin 16 := ⟨min 15 b.toNat, by omega⟩

/-- LOAD-WAVE (R132). -/
def execLoadWave (table : Byte) (s : State) : Host.Outcome State Fault Refusal :=
  .next <| submit (requestBytes (.loadWave table))
    (fun _ s =>
      if h : table.toNat < 8 then
        let wave : Wave := Table.tabulate 32 fun i => sampleOf (Area.byteAt s.window.buffer i.val)
        { s with sound := { s.sound with waves := s.sound.waves.set ⟨table.toNat, h⟩ wave } }.answer .ok
          [table, nat1 ((s.window.buffer.items.take 32).countP fun (b : Byte) => decide (15 < b.toNat))]
      else s.answer .range []) s

/-- SET-MASTER (R137). -/
def execSetMaster (volume : Byte) (s : State) : Host.Outcome State Fault Refusal :=
  .next <| submit (requestBytes (.setMaster volume))
    (fun _ s =>
      let m := min Config.maxMaster volume.toNat
      { s with sound := { s.sound with master := m } }.answer .ok [nat1 s.sound.master, nat1 m]) s

/-! ### Samples (R128 to R134) -/

/-- The position of a phase in the cycle, 0 to 31 (R129). -/
def position (phase : Half) : Fin 32 := ⟨phase.toNat / 2048, by have := phase.isLt; omega⟩

/-- The current note is spent: the voice is STARVED, or has its spent mark set (R117, R128). -/
def Voice.isSpent (v : Voice) : Bool := v.spent || v.state == .starved

/-- The note whose phase moves at a frame: the current note of a PLAYING or STARVED voice (R128). -/
def Voice.moving (v : Voice) : Option Note :=
  match v.state with
  | .playing => v.current
  | .starved => v.current
  | .idle => none
  | .held _ => none

/-- The note a voice samples at a frame: its moving note, unless it is spent under SILENCE (R128). -/
def Voice.sounding (v : Voice) : Option Note :=
  if v.isSpent && v.conditioning == .silence then none else v.moving

/-- The sample of a square timbre of a duty (R130). -/
def squareSample (duty : Nat) (p : Fin 32) : Fin 16 := if p.val < duty then 15 else 0

/-- The sample q of a timbre, none for REST (R130, R131, R133). -/
def sample (waves : Table Wave 8) (phase : Half) (noise : BitVec 15) : Timbre → Option (Fin 16)
  | .square12 => some (squareSample 4 (position phase))
  | .square25 => some (squareSample 8 (position phase))
  | .square50 => some (squareSample 16 (position phase))
  | .square75 => some (squareSample 24 (position phase))
  | .wave t => some ((waves.get t).get (position phase))
  | .noiseLong => some (if noise.getLsbD 0 then 0 else 15)
  | .noiseShort => some (if noise.getLsbD 0 then 0 else 15)
  | .rest => none

/-- The output of a voice: (2q - 15) times its volume, 0 where no sample is used (R128, R135). -/
def Voice.output (waves : Table Wave 8) (v : Voice) : Int :=
  match v.sounding with
  | none => 0
  | some n =>
    match sample waves v.phase v.noise n.timbre with
    | none => 0
    | some q => (2 * (q.val : Int) - 15) * v.volume.val

/-- The left share of a voice (R136). -/
def Voice.leftShare (waves : Table Wave 8) (v : Voice) : Int :=
  match v.sounding with
  | none => 0
  | some n => v.output waves * n.left.val

/-- The right share of a voice (R136). -/
def Voice.rightShare (waves : Table Wave 8) (v : Voice) : Int :=
  match v.sounding with
  | none => 0
  | some n => v.output waves * n.right.val

/-- One advance of a noise register (R133). -/
def noiseAdvance (short : Bool) (r : BitVec 15) : BitVec 15 :=
  let f := r.getLsbD 0 ^^ r.getLsbD 1
  let shifted := (r >>> 1) ||| (if f then 0x4000 else 0)
  if short then (shifted &&& 0x7FBF) ||| (if f then 0x40 else 0) else shifted

/-- A voice's phase accumulator and noise register after a frame (R128, R129, R133). -/
def Voice.advance (v : Voice) : Voice :=
  match v.moving with
  | none => v
  | some n =>
    let phase := v.phase + n.pitch
    let crosses := position phase != position v.phase
    { v with
      phase := phase
      noise :=
        match n.timbre, crosses with
        | .noiseLong, true => noiseAdvance false v.noise
        | .noiseShort, true => noiseAdvance true v.noise
        | _, _ => v.noise }

/-! ### The mix (R136, R139, R140) -/

/-- The sum of a share over the voices of a group (R136). -/
def Sound.groupSum (so : Sound) (g : Group) (share : Voice → Int) : Int :=
  (so.voices.items.map fun v => if v.group = g then share v else 0).sum

/-- The four products of R139 before they are clamped: the sums by slot format, times the master volume. -/
def Sound.products (so : Sound) (format : SlotFormat) : Frame :=
  let al := so.groupSum .a (Voice.leftShare so.waves)
  let ar := so.groupSum .a (Voice.rightShare so.waves)
  let bl := so.groupSum .b (Voice.leftShare so.waves)
  let br := so.groupSum .b (Voice.rightShare so.waves)
  match format with
  | .pair => ⟨[(al + bl) * so.master, (ar + br) * so.master, 0, 0], rfl⟩
  | .split => ⟨[al * so.master, ar * so.master, bl * so.master, br * so.master], rfl⟩

/-- A slot value: its product clamped into [-32768, 32767] (R139). -/
def slotValue (x : Int) : Int := clamp (-32768) 32767 x

/-- The four slot values of a frame (R139). -/
def Sound.slots (so : Sound) (format : SlotFormat) : Frame := (so.products format).map slotValue

/-- A slot of the frame is bounded (R139). -/
def Sound.clips (so : Sound) (format : SlotFormat) : Bool :=
  (so.products format).items.any fun x => decide (slotValue x ≠ x)

/-- The sound engine after computing a frame: phases and noise advanced, the clipped-frame count raised when a slot was
bounded, held at 65535 (R127, R140). -/
def Sound.afterFrame (so : Sound) (format : SlotFormat) : Sound :=
  { so with
    voices := so.voices.map Voice.advance
    clipped := if so.clips format then min Config.maxClipped (so.clipped + 1) else so.clipped }

/-! ### Frames as sent (R145) -/

/-- The frame as sent: slot j in position (j + offset) mod 4 (R145). -/
def rotate (offset : Fin 4) (slots : Frame) : Frame := Table.tabulate 4 fun p => slots.get (p - offset)

/-- The link sends four slot values as a frame, each as a 16-bit two's-complement word, marked on FSO (R145). -/
def Link.send (l : Link) (slots : Frame) : Link :=
  { l with sent := (rotate l.offset slots).map (BitVec.ofInt 16), framesSent := l.framesSent + 1 }

/-- The four zero slots of a rest frame (R153). -/
def restSlots : Frame := Table.fill 4 0

/-- The frame of a frame event: computed by the sound engine and sent by the link (R127, R145). -/
def State.frame (s : State) : State :=
  { s with
    sound := s.sound.afterFrame s.link.format
    link := s.link.send (s.sound.slots s.link.format) }

/-! ### The sound tick (R115, R127, R138) -/

/-- A QUIESCE is in its fade (R181). -/
def State.fading (s : State) : Bool := s.window.work == some .quiesce

/-- The fade step of a sound tick: during the fade m falls by 1 if it is above 0 (R138). -/
def Sound.fadeStep (so : Sound) (fading : Bool) : Sound :=
  if fading then { so with master := so.master - 1 } else so

/-- The sound engine's part of a sound tick: the note progression with its STARVED raises, the fade step, and the frame of
that frame event (R115, R117, R127, R138). -/
def State.soundTick (s : State) : State :=
  { s with
    sound := { s.sound.progression.fadeStep s.fading with tickHanded := false }
    notices := s.notices.raiseStarved s.sound.starving }.frame

/-- A sound tick the link has handed on (R115, R144). In RUN only; with none handed on it does not come about (log 2,
log 9). -/
def execSoundTick (s : State) : Host.Outcome State Fault Refusal :=
  .next <| if s.power.main == .run && s.sound.tickHanded then s.soundTick else s

/-- The fade reported complete: master volume 0 in the fade of a QUIESCE. The main domain enters DOZE and QUIESCE answers
DONE with the saved master (R138, R181). Otherwise it does not come about (log 2). -/
def execFadeComplete (s : State) : Host.Outcome State Fault Refusal :=
  .next <|
    if s.fading && s.power.main == .run && s.sound.master == 0 then
      { s with power := { s.power with main := .doze } }.answer .done [nat1 (s.sound.savedMaster.getD 0)]
    else s

end Sys2Proof.Machine
end

