-- ==== Sys2Proof/Machine/Link.lean ====
section
/-! DEFINITION. The audio link: frame instants, sound ticks and rumble units, strobe classing, link states and the change
of source (chapter 8). Instants are in units of 1/512 microsecond (log 11). -/

namespace Sys2Proof.Machine

open Sys2Proof

/-! ### Frame events (R143, R144) -/

/-- The link's count of a frame event: the tick phase rises, the 128th is a sound tick, the fourth sound tick a rumble
unit, which is handed to the driver (R144). -/
def Link.count (l : Link) : Link :=
  if l.tickPhase + 1 < 128 then { l with tickPhase := l.tickPhase + 1 }
  else if l.unitPhase + 1 < 4 then { l with tickPhase := 0, unitPhase := l.unitPhase + 1 }
  else { l with tickPhase := 0, unitPhase := 0, unitsHanded := l.unitsHanded + 1 }

/-- A frame event: one that is no sound tick is computed and sent; one that is a sound tick is handed to the sound engine,
whose tick computes and sends it (R143, R144). -/
def State.frameEvent (s : State) : State :=
  let s' := { s with link := s.link.count }
  if s.link.tickPhase + 1 < 128 then s'.frame
  else { s' with sound := { s'.sound with tickHanded := true } }

/-- A sound tick still with the sound engine is completed before the next frame event reaches it (R127; log 9). -/
def State.settleTick (s : State) : State := if s.sound.tickHanded then s.soundTick else s

/-- A frame instant: a frame event in RUN, a rest frame in DOZE (R143, R153). -/
def State.frameInstant (s : State) : State :=
  match s.power.main with
  | .run => s.settleTick.frameEvent
  | .doze => { s with link := s.link.send restSlots }
  | .off => s

/-- A frame instant of the link's own timing, at the instant it was due (R143, R150). -/
def State.ownInstant (s : State) (due : Instant) : State :=
  { s with link := { s.link with ownLast := some due, ownNext := due + Config.period } }.frameInstant

/-- FRAME_INSTANT: in SEEKING and MASTER the own timing makes a frame instant. After power-going, while the failing supply
holds the outputs, it sends a rest frame (R143, R153, R154; log 20). In SLAVE the own timing makes none (log 2). -/
def execFrameInstant (s : State) : Host.Outcome State Fault Refusal :=
  .next <|
    if s.mainUp then
      match s.link.state with
      | .seeking => s.ownInstant s.link.ownNext
      | .master => s.ownInstant s.link.ownNext
      | .slave => s
    else if s.link.outputsHold then { s with link := s.link.send restSlots }
    else s

/-! ### Strobes (R146, R147, R149) -/

/-- The class of a strobe by the time since the reference instant (R146). -/
inductive StrobeClass where
  | bad
  | good
  | late
deriving DecidableEq, Repr

/-- Classing by the windows of R146. -/
def strobeClass (elapsed : Nat) : StrobeClass :=
  if elapsed < Config.goodFrom then .bad
  else if elapsed ≤ Config.goodTo then .good
  else .late

/-- Entry to SLAVE at the strobe that completes the good run; from MASTER it raises LINK "regained". The strobe makes a
frame instant unless an own frame instant came less than 15.0 microseconds before it (R149, R150). -/
def State.enterSlave (s : State) (arrival : Instant) : State :=
  let s' :=
    { s with
      link :=
        { s.link with state := .slave, reference := some arrival, goodRun := 0, substitutionRun := 0 }
      notices := s.notices.raiseIf (s.link.state == .master) Notices.raiseLinkRegained }
  match s.link.ownLast with
  | some own => if arrival < own + Config.apart then s' else s'.frameInstant
  | none => s'.frameInstant

/-- A strobe in SEEKING or MASTER under FOLLOW, `elapsed` after the reference instant (R146, R149). -/
def State.strobeAlongside (s : State) (elapsed : Nat) (arrival : Instant) : State :=
  match strobeClass elapsed with
  | .bad => { s with link := { s.link with goodRun := 0 } }
  | .late => { s with link := { s.link with goodRun := 0, reference := some arrival } }
  | .good =>
    if s.link.goodRun + 1 < Config.goodRunFull then
      { s with link := { s.link with goodRun := s.link.goodRun + 1, reference := some arrival } }
    else s.enterSlave arrival

/-- A strobe in SLAVE, `elapsed` after the reference instant: good, or late by no more than 32.0 microseconds, it makes a
frame instant and becomes the reference; bad, it is ignored. Later than that it cannot occur (R147; log 12). -/
def State.strobeInSlave (s : State) (elapsed : Nat) (arrival : Instant) : State :=
  if elapsed < Config.goodFrom ∨ Config.deadline < elapsed then s
  else { s with link := { s.link with reference := some arrival, substitutionRun := 0 } }.frameInstant

/-- A strobe on FSI (R146, R147, R149): not watched in OWN or with the main domain OFF; with no reference instant held it
becomes the reference. -/
def execFsiStrobe (arrival : Instant) (s : State) : Host.Outcome State Fault Refusal :=
  .next <|
    if s.mainUp && s.link.mode == .follow then
      match s.link.reference with
      | none => { s with link := { s.link with reference := some arrival } }
      | some reference =>
        match s.link.state with
        | .slave => s.strobeInSlave (arrival - reference) arrival
        | .seeking => s.strobeAlongside (arrival - reference) arrival
        | .master => s.strobeAlongside (arrival - reference) arrival
    else s

/-! ### Substitution (R148) -/

/-- The link's count of a substitution: a slip, and the reference moved forward by one nominal period; at the fourth in a
row MASTER, with no reference and the own timing one period after it (R148, R150). -/
def Link.substitute (l : Link) (reference : Instant) : Link :=
  let slips := min Config.maxSlips (l.slips + 1)
  if l.substitutionRun + 1 < Config.substitutionFull then
    { l with
      slips := slips, substitutionRun := l.substitutionRun + 1, reference := some (reference + Config.period) }
  else
    { l with
      slips := slips, substitutionRun := 0, reference := none, state := .master,
      ownNext := reference + 2 * Config.period }

/-- SUBSTITUTION: in SLAVE, 32.0 microseconds after the reference with no strobe taken, a substituted frame instant (R148).
Elsewhere it does not come about (log 2). -/
def execSubstitution (s : State) : Host.Outcome State Fault Refusal :=
  .next <|
    if s.mainUp && s.link.state == .slave then
      match s.link.reference with
      | some reference =>
        { s with
          link := s.link.substitute reference
          notices :=
            s.notices.raiseIf (decide (Config.substitutionFull ≤ s.link.substitutionRun + 1))
              Notices.raiseLinkLost }.frameInstant
      | none => s
    else s

/-! ### Change of source on a request (R150, R151) -/

/-- The own timing takes over from the strobes at the step of a request: its first frame instant falls one period after the
reference instant; if that has already passed it is made at the step (R150). From SEEKING or MASTER the own timing runs on.
`after` is the link as the request leaves it otherwise. -/
def State.toOwnTiming (s : State) (now : Instant) (after : Link) : State :=
  match s.link.state, s.link.reference with
  | .slave, some reference =>
    if reference + Config.period < now then { s with link := after }.ownInstant now
    else { s with link := { after with ownNext := reference + Config.period } }
  | _, _ => { s with link := after }

/-- The code of a link mode (R152). -/
def LinkMode.code : LinkMode → Byte
  | .follow => 0
  | .own => 1

/-- The code of a link state (R152). -/
def LinkState.code : LinkState → Byte
  | .seeking => 0
  | .slave => 1
  | .master => 2

/-- The code of a slot format (R152). -/
def SlotFormat.code : SlotFormat → Byte
  | .pair => 0
  | .split => 1

/-- The link with a mode set: unchanged it keeps state, runs and reference; changed it enters MASTER or SEEKING with none
(R151). -/
def Link.withMode (l : Link) (mode : LinkMode) : Link :=
  if l.mode = mode then l
  else
    { l with
      mode := mode
      state :=
        match mode with
        | .own => .master
        | .follow => .seeking
      goodRun := 0
      substitutionRun := 0
      reference := none }

/-- The change SET-LINK makes (R150, R151; log 29). -/
def State.setLink (s : State) (mode : LinkMode) (format : SlotFormat) (offset : Fin 4) (now : Instant) : State :=
  let after := { s.link.withMode mode with format := format, offset := offset }
  if s.link.mode = mode then { s with link := after } else s.toOwnTiming now after

/-- SET-LINK (R151). -/
def execSetLink (mode format offset : Byte) (now : Instant) (s : State) : Host.Outcome State Fault Refusal :=
  .next <| submit (requestBytes (.setLink mode format offset now))
    (fun _ s =>
      if h : offset.toNat < 4 then
        if decide (1 < mode.toNat) || decide (1 < format.toNat) then s.answer .range []
        else
          let s' :=
            s.setLink (if mode = 0 then .follow else .own) (if format = 0 then .pair else .split) ⟨offset.toNat, h⟩ now
          s'.answer .ok [s'.link.mode.code, s'.link.state.code, s'.link.format.code, nat1 s'.link.offset.val]
      else s.answer .range []) s

/-- READ-LINK (R152). -/
def execReadLink (s : State) : Host.Outcome State Fault Refusal :=
  .next <| submit (requestBytes .readLink)
    (fun _ s =>
      { s with link := { s.link with slips := 0 } }.answer .ok
        [s.link.mode.code, s.link.state.code, s.link.format.code, nat1 s.link.offset.val, nat1 s.link.slips,
          nat1 s.link.goodRun]) s

/-- The link after its part of a SOFT-RESET, but for the change of source (R154). -/
def Link.softReset (l : Link) : Link :=
  { l with
    state :=
      match l.mode with
      | .follow => .seeking
      | .own => .master
    slips := 0
    goodRun := 0
    substitutionRun := 0
    reference := none }

end Sys2Proof.Machine
end

