-- ==== Sys2Proof/Machine/Rumble.lean ====
section
/-! DEFINITION. The rumble driver: patterns, requests and their queue, progression at rumble units, and the driver's part
of a supply reading (chapter 9). -/

namespace Sys2Proof.Machine

open Sys2Proof

/-! ### Requests and the waiting queue (R157 to R160) -/

/-- A request that becomes current, its started mark clear; step position, units left and plays left hold no value until
its start (R157, R161; log 13). -/
def RumbleRequest.asCurrent (r : RumbleRequest) : CurrentRequest := { request := r, playing := none }

/-- A request placed after every queued request of equal or higher priority (R159). -/
def joinQueue (r : RumbleRequest) : List RumbleRequest → List RumbleRequest
  | [] => [r]
  | q :: rest => if q.priority < r.priority then r :: q :: rest else q :: joinQueue r rest

/-- A pattern is loaded: its step count is above 0 (R155). -/
def Rumble.loaded (r : Rumble) (pattern : Fin 16) : Bool := !(r.patterns.get pattern).steps.isEmpty

/-- A cue lost is counted, the count held at 255; a console request is not (R159). -/
def Rumble.countLost (r : Rumble) (lost : RumbleRequest) : Rumble :=
  match lost.origin with
  | .console => r
  | .cue => { r with droppedCues := min Config.maxDropped (r.droppedCues + 1) }

/-- What became of a request (R158, R160). -/
inductive RumbleOutcome where
  /-- The quiet mark is set (a cue only). -/
  | quiet
  | noPattern
  /-- It became current, none being current before. -/
  | began
  /-- It became current, this request being discarded. -/
  | preempted (discarded : RumbleRequest)
  | queued
  /-- It joined the full queue, its last request being removed. -/
  | displaced (removed : RumbleRequest)
  | queueFull
deriving DecidableEq, Repr

/-- A new request handled by the first row of R158 that fits. -/
def Rumble.request (r : Rumble) (q : RumbleRequest) : Rumble × RumbleOutcome :=
  if r.quiet && q.origin == .cue then (r, .quiet)
  else if !r.loaded q.pattern then (r, .noPattern)
  else
    match r.current with
    | none => ({ r with current := some q.asCurrent }, .began)
    | some c =>
      if c.request.priority < q.priority then
        ({ r with current := some q.asCurrent, kick := false }, .preempted c.request)
      else if r.queue.length < Config.waitingCapacity then ({ r with queue := joinQueue q r.queue }, .queued)
      else
        match r.queue.getLast? with
        | none => (r.countLost q, .queueFull)
        | some last =>
          if last.priority < q.priority then
            ({ (r.countLost last) with queue := joinQueue q r.queue.dropLast }, .displaced last)
          else (r.countLost q, .queueFull)

/-- A new request at the driver: handled by R158; one that enters HALTED from STILL raises POWER "rumble halted". -/
def State.rumbleRequest (s : State) (q : RumbleRequest) : State :=
  { s with
    rumble := (s.rumble.request q).1
    notices :=
      s.notices.raiseIf (s.rumble.state == .still && (s.rumble.request q).1.state == .halted) Notices.raiseHalted }

/-- The code of an origin (R171). -/
def Origin.code : Origin → Byte
  | .console => 0
  | .cue => 1

/-- The place of a newly joined request: behind every queued request of its priority or higher (R159, R160). -/
def queuePosition (q : RumbleRequest) (queue : List RumbleRequest) : Nat :=
  (queue.filter fun x => decide (q.priority ≤ x.priority)).length

/-- The data of a PLAY-PATTERN refused with NO-PATTERN or QUEUE-FULL: the queue length and the priority of the current
request, 255 when there is none (R160). -/
def refusedPlay (r : Rumble) : List Byte :=
  [nat1 r.queue.length,
    match r.current with
    | some c => nat1 c.request.priority.val
    | none => 255]

/-- The result and data of a PLAY-PATTERN answer, from the driver before and after the step (R160). -/
def playAnswer (before after : Rumble) (q : RumbleRequest) : RumbleOutcome → Result × List Byte
  | .quiet => (.ok, [])
  | .noPattern => (.noPattern, refusedPlay after)
  | .queueFull => (.queueFull, refusedPlay after)
  | .began => (.ok, [0, nat1 after.queue.length, 255])
  | .preempted d => (.ok, [1, nat1 after.queue.length, 255, nat1 d.pattern.val, d.origin.code])
  | .queued => (.ok, [2, nat1 after.queue.length, nat1 (queuePosition q before.queue)])
  | .displaced d =>
    (.ok, [3, nat1 after.queue.length, nat1 (queuePosition q before.queue.dropLast), nat1 d.pattern.val, d.origin.code])

/-- PLAY-PATTERN (R158, R160). -/
def execPlayPattern (pattern priority : Byte) (s : State) : Host.Outcome State Fault Refusal :=
  .next <| submit (requestBytes (.playPattern pattern priority))
    (fun _ s =>
      if h : pattern.toNat < 16 ∧ priority.toNat < 4 then
        let q : RumbleRequest :=
          { pattern := ⟨pattern.toNat, h.1⟩, priority := ⟨priority.toNat, h.2⟩, origin := .console }
        let a := playAnswer s.rumble (s.rumble.request q).1 q (s.rumble.request q).2
        (s.rumbleRequest q).answer a.1 a.2
      else s.answer .range []) s

/-- The driver takes the oldest cue offered (R122, R158). With none offered it does not come about (log 2). One still
waiting when DOZE begins may be taken in DOZE or after it (log 35). -/
def execCue (s : State) : Host.Outcome State Fault Refusal :=
  .next <|
    match s.sound.cues with
    | [] => s
    | c :: rest =>
      { s with sound := { s.sound with cues := rest } }.rumbleRequest
        { pattern := c.pattern, priority := c.priority, origin := .cue }

/-! ### Patterns (R155, R156) -/

/-- The steps of a pattern in the transfer buffer, two bytes each, a duration of 0 taken as 1 (R156, 11.4). -/
def stepsOf : Nat → List Byte → List RumbleStep
  | 0, _ => []
  | _ + 1, [] => []
  | _ + 1, [_] => []
  | n + 1, level :: duration :: rest =>
    { level := level.toNat, duration := max 1 duration.toNat } :: stepsOf n rest

/-- The number of durations of 0 among the first `n` steps of the transfer buffer (R156). -/
def zeroDurations : Nat → List Byte → Nat
  | 0, _ => 0
  | _ + 1, [] => 0
  | _ + 1, [_] => 0
  | n + 1, _ :: duration :: rest => (if duration = 0 then 1 else 0) + zeroDurations n rest

/-- The driver with the current request gone and the head of its queue, if any, current and not yet started (R156). -/
def Rumble.passOn (r : Rumble) : Rumble :=
  match r.queue with
  | [] => { r with current := none, kick := false }
  | q :: rest => { r with current := some q.asCurrent, queue := rest, kick := false }

/-- A pattern replaced. With step count 0 every queued request that names it is removed (R156). -/
def Rumble.replace (r : Rumble) (pattern : Fin 16) (p : Pattern) : Rumble :=
  { r with
    patterns := r.patterns.set pattern p
    queue := if p.steps.isEmpty then r.queue.filter fun q => q.pattern != pattern else r.queue }

/-- The current request names a pattern. -/
def Rumble.playsPattern (r : Rumble) (pattern : Fin 16) : Bool := r.current.any fun c => c.request.pattern == pattern

/-- LOAD-PATTERN (R156). -/
def execLoadPattern (pattern count repeats : Byte) (s : State) : Host.Outcome State Fault Refusal :=
  .next <| submit (requestBytes (.loadPattern pattern count repeats))
    (fun _ s =>
      if h : pattern.toNat < 16 then
        if decide (Config.stepCapacity < count.toNat) || decide (Config.endlessRepeat < repeats.toNat) then
          s.answer .range []
        else
          let number : Fin 16 := ⟨pattern.toNat, h⟩
          let p : Pattern :=
            { steps := stepsOf count.toNat s.window.buffer.items, repeats := repeats.toNat }
          let replaced := s.rumble.replace number p
          let ended := s.rumble.playsPattern number
          let rumble := if ended then replaced.passOn else replaced
          { s with
            rumble := rumble
            notices := s.notices.raiseIf (ended && rumble.current.isNone) Notices.raiseDone }.answer .ok
            [pattern, count, repeats, nat1 (zeroDurations count.toNat s.window.buffer.items), flag1 ended,
              nat1 (s.rumble.queue.length - replaced.queue.length)]
      else s.answer .range []) s

/-! ### Progression (R161, R162, R167) -/

/-- The plays left of a pattern's repeat, endless for 15 (R155, R161). -/
def playsOf (repeats : Nat) : Plays := if repeats = Config.endlessRepeat then .endless else .left repeats

/-- A step start of a request at a position with plays left: the units left take the step's duration, and the kick mark is
set when the kick applies; `dutyBefore` is the duty just before (R161, R167). -/
def Rumble.startStep (r : Rumble) (dutyBefore : Nat) (q : RumbleRequest) (position : Nat) (plays : Plays) : Rumble :=
  let step := (r.patterns.get q.pattern).stepAt position
  let want := min r.ceiling (requestedDuty step.level r.strength)
  { r with
    current :=
      some { request := q, playing := some { position := position, unitsLeft := step.duration, plays := plays } }
    kick := r.kickSetting && dutyBefore == 0 && want != 0 }

/-- A request starts: step 0 and the plays its pattern's repeat gives (R161). -/
def Rumble.startRequest (r : Rumble) (dutyBefore : Nat) (q : RumbleRequest) : Rumble :=
  r.startStep dutyBefore q 0 (playsOf (r.patterns.get q.pattern).repeats)

/-- The current request finishes at a rumble unit: the head of the queue becomes current and starts at once, or the driver
becomes STILL (R162). -/
def Rumble.finish (r : Rumble) (dutyBefore : Nat) : Rumble :=
  match r.queue with
  | [] => { r with current := none, kick := false }
  | q :: rest => { r with queue := rest, kick := false }.startRequest dutyBefore q

/-- The end of a step: the next step, the first step of a further play, or the finish (R161). -/
def Rumble.endStep (r : Rumble) (dutyBefore : Nat) (q : RumbleRequest) (p : Playing) : Rumble :=
  if p.position + 1 < (r.patterns.get q.pattern).steps.length then r.startStep dutyBefore q (p.position + 1) p.plays
  else
    match p.plays with
    | .endless => r.startStep dutyBefore q 0 .endless
    | .left (n + 1) => r.startStep dutyBefore q 0 (.left n)
    | .left 0 => r.finish dutyBefore

/-- The driver at a rumble unit; the duty just before it is that of RUN (R161, R162, R167). -/
def Rumble.unit (r : Rumble) : Rumble :=
  match r.current with
  | none => r
  | some c =>
    match c.playing with
    | none => { r with kick := false }.startRequest (r.duty .run) c.request
    | some p =>
      if p.unitsLeft - 1 = 0 then { r with kick := false }.endStep (r.duty .run) c.request p
      else { r with kick := false, current := some { c with playing := some { p with unitsLeft := p.unitsLeft - 1 } } }

/-- A rumble unit the link has handed on (R144, R161): a passage to STILL raises RUMBLE "done" (R162). With none handed on
it does not come about (log 2, log 10). In RUN only (R153, R182): one still waiting when DOZE begins waits for RUN
(log 35). -/
def execRumbleUnit (s : State) : Host.Outcome State Fault Refusal :=
  .next <|
    if s.power.main == .run && s.link.unitsHanded != 0 then
      { s with
        link := { s.link with unitsHanded := s.link.unitsHanded - 1 }
        rumble := s.rumble.unit
        notices := s.notices.raiseIf (s.rumble.current.isSome && s.rumble.unit.current.isNone) Notices.raiseDone }
    else s

/-! ### Stopping, setting, reading (R169 to R171) -/

/-- The driver stopped: no current request, empty queue, kick mark clear (R169). -/
def Rumble.stop (r : Rumble) : Rumble := { r with current := none, queue := [], kick := false }

/-- STOP-RUMBLE (R169). -/
def execStopRumble (s : State) : Host.Outcome State Fault Refusal :=
  .next <| submit (requestBytes .stopRumble)
    (fun _ s =>
      { s with rumble := s.rumble.stop }.answer .ok
        [match s.rumble.current with
          | some c => nat1 c.request.pattern.val
          | none => 255,
          nat1 s.rumble.queue.length]) s

/-- SET-RUMBLE (R167, R170). -/
def execSetRumble (strength kick : Byte) (s : State) : Host.Outcome State Fault Refusal :=
  .next <| submit (requestBytes (.setRumble strength kick))
    (fun _ s =>
      if 1 < kick.toNat then s.answer .range []
      else
        let rumble :=
          { s.rumble with
            strength := min 15 strength.toNat
            kickSetting := kick == 1
            kick := s.rumble.kick && kick == 1 }
        { s with rumble := rumble }.answer .ok
          [nat1 rumble.strength, flag1 rumble.kickSetting, nat1 (rumble.duty s.power.main)]) s

/-- The code of plays left, 15 for endless (R171). -/
def Plays.code : Plays → Byte
  | .endless => 15
  | .left n => nat1 n

/-- Step position, units left and plays left in a READ-RUMBLE answer; before the start, where R157 and R161 give them no
value, free values within the ranges of R157 (log 13). -/
def playingData (draw : Nat) : Option Playing → List Byte
  | some p => [nat1 p.position, nat1 p.unitsLeft, p.plays.code]
  | none =>
    [nat1 (Config.unstartedPosition draw).val, nat1 ((Config.unstartedUnits draw).val + 1),
      nat1 (Config.unstartedPlays draw).val]

/-- The seven fields of the current request in a READ-RUMBLE answer. With none, the pattern is 255 and the other fields,
which R171 does not state, are free values (log 13). -/
def currentData (draw : Nat) : Option CurrentRequest → List Byte
  | some c =>
    [nat1 c.request.pattern.val, nat1 c.request.priority.val, c.request.origin.code, flag1 c.started] ++
      playingData draw c.playing
  | none =>
    [255, Config.absentRequestField draw 1, Config.absentRequestField draw 2, Config.absentRequestField draw 3,
      Config.absentRequestField draw 4, Config.absentRequestField draw 5, Config.absentRequestField draw 6]

/-- The three fields of one place of the queue, 0 beyond its length (R171). -/
def queuedData (q : Option RumbleRequest) : List Byte :=
  match q with
  | some r => [nat1 r.pattern.val, nat1 r.priority.val, r.origin.code]
  | none => [0, 0, 0]

/-- READ-RUMBLE (R171). -/
def execReadRumble (s : State) : Host.Outcome State Fault Refusal :=
  .next <| submit (requestBytes .readRumble)
    (fun _ s =>
      { s with
        rumble := { s.rumble with droppedCues := 0 }
        draws := if s.rumble.current.any CurrentRequest.started then s.draws else s.draws + 1 }.answer .ok
        ([s.rumble.state.code] ++ currentData s.draws s.rumble.current ++
          [nat1 s.duty, nat1 s.rumble.ceiling, flag1 s.rumble.supplyLow, flag1 s.rumble.kick, nat1 s.rumble.strength,
            flag1 s.rumble.kickSetting, nat1 s.rumble.queue.length] ++
          queuedData s.rumble.queue[0]? ++ queuedData s.rumble.queue[1]? ++ queuedData s.rumble.queue[2]? ++
          queuedData s.rumble.queue[3]? ++ [nat1 s.rumble.droppedCues])) s

/-! ### Supply readings (R165, R168) -/

/-- The ceiling a console reading gives (R165). -/
def ceilingOf (v : Nat) : Nat :=
  if Config.ceilingFull ≤ v then 255
  else if Config.ceilingZero ≤ v then 255 * (v - Config.ceilingZero) / (Config.ceilingFull - Config.ceilingZero)
  else 0

/-- The driver after a console reading: the ceiling and the supply-low mark (R165, R168). -/
def Rumble.read (r : Rumble) (v : Nat) : Rumble :=
  { r with
    ceiling := ceilingOf v
    supplyLow :=
      if v < Config.haltLevel then true else if Config.resumeLevel ≤ v then false else r.supplyLow }

/-- The driver takes a reading while the main domain is up: a request halted or resumed raises POWER (R168). -/
def State.rumbleReading (s : State) (v : Nat) : State :=
  let r := s.rumble.read v
  { s with
    rumble := r
    notices :=
      (s.notices.raiseIf (s.rumble.state == .running && r.state == .halted) Notices.raiseHalted).raiseIf
        (s.rumble.state == .halted && r.state == .running) Notices.raiseResumed }

end Sys2Proof.Machine
end

