-- ==== Sys2Proof/Machine/Power.lean ====
section
/-! DEFINITION. Power domains and supply watch: readings, main start, power-going, the main reset, the console reset line,
the cell marks, the cell reset, QUIESCE and READ-POWER (chapter 10). -/

namespace Sys2Proof.Machine

open Sys2Proof

/-! ### Main reset and power-going (R176 to R178, R194) -/

/-- The main domain's work memory lost, or reset: window, notice unit, sound engine, link and driver at their main reset
values (R125, R142, R154, R173, R186, R194; log 5). The engine's tend actions stay in flight (R105), those naming the key of
a RETIRE in hand among them (log 32). -/
def State.clearMain (s : State) : State :=
  { s with window := .reset, notices := .reset, sound := .reset, link := .reset, rumble := .reset }

/-- A main reset: every main block takes its reset values, open changes are abandoned and counted, the notice unit takes the
KEEP report, the audit starts, the first reading is awaited, and the engine evaluates (R37, R41, R42, R91, R176, R178, R179,
R180, R194). -/
def State.mainReset (s : State) : State :=
  let store := s.store.abandonAll
  { s.clearMain with
    store := store.startAudit
    notices :=
      Notices.reset.raiseKeepReport store.keepLost (decide (0 < store.changesLost)) s.power.retentionDoubtful
    power := { s.power with main := .run, firstReading := true } }.evaluate

/-- Power-going: the main domain OFF, its state lost, open changes abandoned and counted; the link's outputs may hold a
while (R31, R41, R154, R177). -/
def State.powerGoing (s : State) : State :=
  { s.clearMain with
    store := s.store.abandonAll
    power := { s.power with main := .off, firstReading := false }
    link := { Link.reset with outputsHold := true } }

/-! ### Readings (R168, R175 to R179) -/

/-- The cell-low mark after a reading (R179). -/
def cellLowAfter (mark : Bool) (cell : Nat) : Bool :=
  if cell < Config.cellLowLevel then true else if Config.cellClearLevel ≤ cell then false else mark

/-- The supply watch's part of a reading: the latest reading and the cell-low mark (R175, R179). -/
def Power.take (p : Power) (r : Reading) : Power :=
  { p with reading := r, cellLow := cellLowAfter p.cellLow r.cell.toNat }

/-- POWER "cell low" is raised: at a reading while the main domain is up that sets the mark from clear, and at the first
reading after a main reset that leaves it set (R179). -/
def Power.reportsCellLow (p : Power) (r : Reading) : Bool :=
  (p.take r).cellLow && (!p.cellLow || p.firstReading)

/-- A reading while the main domain is up: the supply watch's part, the rumble driver's part, and power-going below
2,700 mV (R168, R175, R177, R179). -/
def State.readingUp (s : State) (r : Reading) : State :=
  let s' :=
    { s with
      power := { s.power.take r with firstReading := false }
      notices := s.notices.raiseIf (s.power.reportsCellLow r) Notices.raiseCellLow }.rumbleReading r.console.toNat
  if r.console.toNat < Config.goingLevel then s'.powerGoing else s'

/-- A reading while the main domain is OFF: the supply watch's part, and a main start from 2,900 mV (R175, R176, R179). -/
def State.readingOff (s : State) (r : Reading) : State :=
  let s' := { s with power := s.power.take r }
  if Config.startLevel ≤ r.console.toNat then s'.mainReset else s'

/-- One supply reading (R175). -/
def State.takeReading (s : State) (r : Reading) : State := if s.mainUp then s.readingUp r else s.readingOff r

/-- SUPPLY_READING: one reading, whatever the main domain state (R175; log 16). -/
def execSupplyReading (reading : Reading) (s : State) : Host.Outcome State Fault Refusal :=
  .next <| if s.power.keepRuns then s.takeReading reading else s

/-- WAKE_EVENT: in OFF a reading is taken; at a minute event handed on and not yet taken it is that minute event's reading
too (R175; log 17). In RUN and DOZE there is no wake event (log 2). -/
def execWakeEvent (reading : Reading) (s : State) : Host.Outcome State Fault Refusal :=
  .next <|
    if s.power.keepRuns && !s.mainUp then
      { s with
        calendar :=
          { s.calendar with minuteReadingTaken := decide (0 < s.calendar.minutesHanded) } }.takeReading reading
    else s

/-! ### The console reset line (R178) -/

/-- CONSOLE_RESET: nCRST asserted. In RUN or DOZE a main reset with the domain RUN; in OFF nothing but the line's level
(R178; log 19). -/
def execConsoleReset (s : State) : Host.Outcome State Fault Refusal :=
  .next <|
    let s' := { s with power := { s.power with resetHeld := true } }
    if s.mainUp then s'.mainReset else s'

/-- CONSOLE_RESET_RELEASE: nCRST released; the window takes submits again (R178). -/
def execConsoleResetRelease (s : State) : Host.Outcome State Fault Refusal :=
  .next { s with power := { s.power with resetHeld := false } }

/-! ### The keep supply (R180) -/

/-- The counter a fall left (R43). -/
def counterLeft (c : CounterFault) : Counter :=
  { value := c.value.toInt, floor := c.floor.toInt, ceiling := c.ceiling.toInt }

/-- What a fall left of an entry is an entry the catalog can hold: a LIVE record (no change is open in CELL-ONLY, R41), a
length in range with a block for every 64 bytes of it, each block free or the record's own, as many counters as before
with their values in bounds (R1, R4, R43). -/
def Entry.canFault (e : Entry) (st : Store) (f : CatalogFault) : Bool :=
  !e.isOpen && decide (1 ≤ f.length.toNat) && decide (f.length.toNat ≤ Config.maxLength) &&
    decide (f.blocks.length = blocksFor f.length.toNat) && decide f.blocks.Nodup &&
    (f.blocks.all fun b => e.blocks.contains b || st.freeBlocks.contains b) &&
    decide (f.counters.length = e.counters.length) &&
    f.counters.all fun c => decide (c.floor.toInt ≤ c.value.toInt) && decide (c.value.toInt ≤ c.ceiling.toInt)

/-- The entry as a fall left it. -/
def Entry.faulted (e : Entry) (f : CatalogFault) : Entry :=
  { e with
    length := f.length.toNat, blocks := f.blocks, generation := f.generation.toNat, check := f.check,
    damage := f.damage, audited := f.audited, counters := f.counters.map counterLeft }

/-- The store with one catalog entry changed by a fall; a change that would leave R1, R3, R4 or R43 broken does not come
about (R180; log 15). -/
def Store.faultEntry (st : Store) (f : CatalogFault) : Store :=
  { st with
    catalog := st.catalog.map fun e => if e.key = f.key.toNat ∧ e.canFault st f = true then e.faulted f else e }

/-- The store after one thing a fall did not hold (chapter 1.1, R180; log 15). The fall comes only in CELL-ONLY, where no
request is in hand (R180, R186), so no catalog entry changes while one is. -/
def Store.fault (busy : Bool) (st : Store) : RetentionFault → Store
  | .byte address value => { st with memory := Memory.write st.memory address.toNat value }
  | .entry f => if busy then st else st.faultEntry f

/-- RETENTION_DOUBTFUL: a fall of the keep supply below 1,800 mV sets the mark; keep memory and the catalog may have held,
or may not (R180). What did not hold is the row's operand, in the order given; with none every item stands as it stood. A
retention fault without a fall has no row: bytes and entries change unasked here alone (log 15). -/
def execRetentionDoubtful (faults : List RetentionFault) (s : State) : Host.Outcome State Fault Refusal :=
  .next <|
    if s.power.keepRuns then
      { s with
        power := { s.power with retentionDoubtful := true }
        store := faults.foldl (Store.fault s.window.busy) s.store }
    else s

/-- KEEP_DOMAIN_STOP: a fall of the keep supply below 1,500 mV stops the keep domain; the console supply is below it too, so
the main domain is without power (R174, R180; log 18). -/
def execKeepDomainStop (s : State) : Host.Outcome State Fault Refusal :=
  .next { s.clearMain with power := { s.power with main := .off, keepRuns := false, firstReading := false } }

/-- CELL_RESET: the keep domain restarts with calendar, events and store at their cell-reset values, the main domain OFF
(R17, R79, R105, R180; log 18). -/
def execCellReset (s : State) : Host.Outcome State Fault Refusal :=
  .next
    { s.clearMain with
      calendar := .reset
      engine := .reset
      store := .reset
      power := { Power.reset with resetHeld := s.power.resetHeld } }

/-! ### QUIESCE and READ-POWER (R181, R183) -/

/-- QUIESCE: refused while changes are open; otherwise the driver stops and sets its quiet mark, the sound engine saves the
master volume, and the fade begins with the window BUSY (R138, R172, R181). -/
def execQuiesce (s : State) : Host.Outcome State Fault Refusal :=
  .next <| submit (requestBytes .quiesce)
    (fun _ s =>
      if 0 < s.store.openCount then s.answer .changesOpen [nat1 s.store.openCount]
      else
        { s with
          rumble := { s.rumble.stop with quiet := true }
          sound := { s.sound with savedMaster := some s.sound.master } }.holdWork .quiesce) s

/-- The code of a main domain state (R183). -/
def MainState.code : MainState → Byte
  | .off => 0
  | .run => 1
  | .doze => 2

/-- READ-POWER (R183). -/
def execReadPower (s : State) : Host.Outcome State Fault Refusal :=
  .next <| submit (requestBytes .readPower)
    (fun woke s =>
      s.answer .ok
        (nat2 s.power.reading.console.toNat ++ nat2 s.power.reading.cell.toNat ++
          [s.power.main.code, flag1 woke, flag1 s.mainUp, flag1 s.power.cellLow, flag1 s.power.retentionDoubtful,
            flag1 s.store.keepLost, nat1 s.store.changesLost])) s

end Sys2Proof.Machine
end

