-- ==== Sys2Proof/Machine/Calendar.lean ====
section
/-! DEFINITION. The calendar's requests and its second and minute events (chapter 4). -/

namespace Sys2Proof.Machine

open Sys2Proof

/-- The code of a calendar state (R70). -/
def CalendarState.code : CalendarState → Byte
  | .unset => 0
  | .set => 1

/-- The data of a READ-CLOCK answer; while UNSET every field from the wall second on is 0 (R70, R71). -/
def Calendar.clockData (c : Calendar) : List Byte :=
  nat4 c.trueSecond ++ [c.state.code] ++ nat2 c.dayTurn ++
    match c.state with
    | .unset => [0] ++ List.replicate 20 0
    | .set =>
      let d := dateOf c.wallSecond
      [flag1 c.endMark] ++ nat4 c.wallSecond ++ nat2 d.year ++
        [nat1 d.month, nat1 d.day, nat1 d.hour, nat1 d.minute, nat1 d.second,
          BitVec.ofInt 8 (weekday c.gameDay)] ++ int4 c.gameDay ++ int4 c.intoDay

/-- READ-CLOCK (R70, R71). -/
def execReadClock (s : State) : Host.Outcome State Fault Refusal :=
  .next <| submit (requestBytes .readClock) (fun _ s => s.answer .ok s.calendar.clockData) s

/-- The game day an answer gives: 0 while UNSET (R76, R77). -/
def Calendar.answeredDay (c : Calendar) : Int :=
  match c.state with
  | .unset => 0
  | .set => c.gameDay

/-- The step of a SET-WALL: W is the target less T, the state SET, the end mark clear (R73). -/
def Calendar.setWall (c : Calendar) (target : Nat) : Calendar :=
  { c with wallOffset := (target : Int) - c.trueSecond, state := .set, endMark := false }

/-- SET-WALL (R72, R73, R76). -/
def execSetWall (year : Half) (month day hour minute second : Byte) (s : State) : Host.Outcome State Fault Refusal :=
  .next <| submit (requestBytes (.setWall year month day hour minute second))
    (fun _ s =>
      let d : WallDate :=
        { year := year.toNat, month := month.toNat, day := day.toNat, hour := hour.toNat, minute := minute.toNat,
          second := second.toNat }
      match badDateField d with
      | some position => s.answer .range [nat1 position]
      | none =>
        let c := s.calendar.setWall (wallOf d)
        ({ s with calendar := c }.evaluate).answer .ok
          (nat4 c.trueSecond ++ [s.calendar.state.code] ++ int4 s.calendar.answeredDay ++ nat4 c.wallSecond ++
            int4 c.gameDay)) s

/-- SET-DAY-TURN (R77, R76). -/
def execSetDayTurn (turn : Half) (s : State) : Host.Outcome State Fault Refusal :=
  .next <| submit (requestBytes (.setDayTurn turn))
    (fun _ s =>
      if 1439 < turn.toNat then s.answer .range []
      else
        let c := { s.calendar with dayTurn := turn.toNat }
        ({ s with calendar := c }.evaluate).answer .ok
          (nat2 s.calendar.dayTurn ++ nat2 c.dayTurn ++ int4 s.calendar.answeredDay ++ int4 c.answeredDay)) s

/-- The calendar's part of a second event: T rises up to its maximum, the end mark is set when T + W exceeds the top, the
minute phase advances and on reaching 60 returns to 0, which hands a minute event on (R58, R61). -/
def Calendar.tick (c : Calendar) : Calendar :=
  let second := min Config.maxSecond (c.trueSecond + 1)
  { c with
    trueSecond := second
    endMark := c.endMark || (c.state == .set && decide ((Config.topWall : Int) < second + c.wallOffset))
    minutePhase := if c.minutePhase + 1 < 60 then c.minutePhase + 1 else 0
    minutesHanded := if c.minutePhase + 1 < 60 then c.minutesHanded else c.minutesHanded + 1 }

/-- A second event; while the main domain is up the engine evaluates (R58, R91). The keep domain stopped, the crystal is
not divided (R180). -/
def execSecondEvent (s : State) : Host.Outcome State Fault Refusal :=
  .next <|
    if s.power.keepRuns then
      let s' := { s with calendar := s.calendar.tick }
      if s.mainUp then s'.evaluate else s'
    else s

/-- The minute event a second event has handed on: while the main domain is OFF the engine evaluates and the supply watch
takes its reading, unless a wake event at this minute event took it (R91, R175; log 10, log 17). With none handed on it does
not come about (log 2). -/
def execMinuteEvent (reading : Reading) (s : State) : Host.Outcome State Fault Refusal :=
  .next <|
    if !s.power.keepRuns || s.calendar.minutesHanded == 0 then s
    else
      let s' :=
        { s with
          calendar :=
            { s.calendar with minutesHanded := s.calendar.minutesHanded - 1, minuteReadingTaken := false } }
      if s.mainUp then s'
      else if s.calendar.minuteReadingTaken then s'.evaluate
      else s'.evaluate.takeReading reading

end Sys2Proof.Machine
end

