-- ==== Sys2Proof/Machine/General.lean ====
section
/-! DEFINITION. The window's own rows and the general requests (sections 11.1 to 11.3). -/

namespace Sys2Proof.Machine

open Sys2Proof

/-- IDENTIFY (R187). -/
def execIdentify (s : State) : Host.Outcome State Fault Refusal :=
  .next <| submit (requestBytes .identify)
    (fun _ s =>
      s.answer .ok
        (halfBytes Config.vendorCode ++ halfBytes Config.partCode ++ [Config.revision] ++ nat2 1024 ++ [96, 48, 8, 16])) s

/-- READ-STATUS (R188). -/
def execReadStatus (s : State) : Host.Outcome State Fault Refusal :=
  .next <| submit (requestBytes .readStatus)
    (fun _ s =>
      s.answer .ok
        ([s.pendingMask, s.notices.enable, nat1 (highestCause s.pendingMask), flag1 s.store.auditFlag] ++
          nat2 s.store.auditPosition ++
          [flag1 s.store.anyDamage, nat1 s.store.openCount, nat1 s.engine.dueList.length])) s

/-- READ-NOTICES (R192). -/
def execReadNotices (s : State) : Host.Outcome State Fault Refusal :=
  .next <| submit (requestBytes .readNotices)
    (fun _ s => s.answer .ok ([s.pendingMask, s.notices.enable] ++ s.detailBlock s.pendingMask)) s

/-- The edge causes: POWER, KEEP, LINK, STARVED, RUMBLE (R190). -/
def edgeCauses : Byte := 0x8F

/-- The notice unit with the edge causes of a mask cleared, pending mark and details (R193). -/
def Notices.clear (n : Notices) (mask : Byte) : Notices :=
  { enable := n.enable
    power := if mask.getLsbD 0 then Notices.reset.power else n.power
    keep := if mask.getLsbD 1 then Notices.reset.keep else n.keep
    link := if mask.getLsbD 2 then Notices.reset.link else n.link
    starved := if mask.getLsbD 3 then Notices.reset.starved else n.starved
    rumble := if mask.getLsbD 7 then Notices.reset.rumble else n.rumble }

/-- The acknowledgement of a set of pending edge causes; for KEEP the store's changes-lost and keep-lost marks and power
control's retention-doubtful mark are cleared too (R193). -/
def State.acknowledge (s : State) (cleared : Byte) : State :=
  let keep := cleared.getLsbD 1
  { s with
    notices := s.notices.clear cleared
    store :=
      { s.store with
        changesLost := if keep then 0 else s.store.changesLost
        keepLost := s.store.keepLost && !keep }
    power := { s.power with retentionDoubtful := s.power.retentionDoubtful && !keep } }

/-- ACK-NOTICE (R193). -/
def execAckNotice (mask : Byte) (s : State) : Host.Outcome State Fault Refusal :=
  .next <| submit (requestBytes (.ackNotice mask))
    (fun _ s =>
      let cleared := mask &&& edgeCauses &&& s.pendingMask
      let s' := s.acknowledge cleared
      s'.answer .ok ([cleared] ++ s.detailBlock cleared ++ [s'.pendingMask])) s

/-- SET-NOTICE-MASK (R191). -/
def execSetNoticeMask (mask : Byte) (s : State) : Host.Outcome State Fault Refusal :=
  .next <| submit (requestBytes (.setNoticeMask mask))
    (fun _ s =>
      let s' := { s with notices := { s.notices with enable := mask } }
      s'.answer .ok [s.notices.enable, mask, s'.pendingMask, flag1 s'.noticeLine]) s

/-- The sound engine's part of a SOFT-RESET: every voice stopped, the marker list emptied (R126). -/
def Sound.softReset (so : Sound) : Sound :=
  { so with voices := so.voices.map Voice.stop, markers := [], dropped := false }

/-- The sound engine's part of a SOFT-RESET, at the whole part. -/
def State.softResetSound (s : State) : State := { s with sound := s.sound.softReset }

/-- The link's part of a SOFT-RESET, with the change of source of R150 (R154). -/
def State.softResetLink (s : State) (now : Instant) : State := s.toOwnTiming now s.link.softReset

/-- The link makes a frame instant at the step of a SOFT-RESET: it leaves SLAVE, and the own timing's first instant has
already passed (R150, R154). -/
def Link.softResetFrame (l : Link) (now : Instant) : Bool :=
  l.state == .slave && l.reference.any fun reference => decide (reference + Config.period < now)

/-- Sound engine and link take their parts of a SOFT-RESET in either order (R189 "in any order"). The order shows only
where the link makes a frame instant at the step; there it is a free choice (log 14). -/
def State.softResetSoundAndLink (s : State) (now : Instant) : State :=
  if s.link.softResetFrame now then
    match Config.softResetLinkFirst s.draws with
    | true => { (s.softResetLink now).softResetSound with draws := s.draws + 1 }
    | false => { s.softResetSound.softResetLink now with draws := s.draws + 1 }
  else s.softResetSound.softResetLink now

/-- Every part of a SOFT-RESET; the driver acts as STOP-RUMBLE, its quiet mark clear (R126, R154, R173, R189). R189 lets
each block take its part in its own step in any order; here all parts are taken in one step, with no strobe and no ignored
submit between them, and a sound tick or rumble unit of a frame made at that step is taken after every part (log 14). -/
def State.softReset (s : State) (now : Instant) : State :=
  let s' := s.softResetSoundAndLink now
  { s' with rumble := { s'.rumble.stop with quiet := false } }

/-- SOFT-RESET (R189). -/
def execSoftReset (now : Instant) (s : State) : Host.Outcome State Fault Refusal :=
  .next <| submit (requestBytes (.softReset now)) (fun _ s => (s.softReset now).answer .ok []) s

/-- UNKNOWN: a submit whose code names no request is answered at once with no data (R185). A code that names a request is
not this row (log 2). -/
def execUnknown (code : Byte) (s : State) : Host.Outcome State Fault Refusal :=
  .next <|
    if requestCodes.contains code then s
    else submit (requestBytes (.unknown code)) (fun _ s => s.answer .unknown []) s

/-- OVERRUN: a write to offset 0 while the window is BUSY is ignored and sets the overrun mark (R185). With the window not
BUSY a write to offset 0 is a submit and not this row (log 2). -/
def execOverrun (s : State) : Host.Outcome State Fault Refusal :=
  .next <|
    if s.windowLive && s.window.busy then { s with window := { s.window with overrun := true } } else s

/-- A write to an offset from 1 to 127: stored in the request area or the transfer buffer; ignored in the answer area
(R184). -/
def Window.store (w : Window) (offset : Nat) (value : Byte) : Window :=
  if offset < 32 then { w with request := Area.lay w.request (offset - 1) [value] }
  else if offset < 64 then w
  else { w with buffer := Area.lay w.buffer (offset - 64) [value] }

/-- WINDOW_WRITE: ignored while the main domain is OFF, nCRST is held or the window is BUSY; stored otherwise, in DOZE
without a wake (R178, R182, R184, R186). Offset 0 is a submit and not this row (log 2). -/
def execWindowWrite (offset : BitVec 7) (value : Byte) (s : State) : Host.Outcome State Fault Refusal :=
  .next <|
    if s.windowLive && !s.window.busy && offset != 0 then
      { s with window := s.window.store offset.toNat value }
    else s

end Sys2Proof.Machine
end

