-- ==== Sys2Proof/Machine/Dispatch.lean ====
section
/-! DEFINITION. One arm per command, each one direct call of its meaning. -/

namespace Sys2Proof.Machine

def exec (i : Instr) (s : State) : Host.Outcome State Fault Refusal :=
  match i with
  | .identify => Sys2Proof.Machine.execIdentify s
  | .readStatus => Sys2Proof.Machine.execReadStatus s
  | .readNotices => Sys2Proof.Machine.execReadNotices s
  | .ackNotice mask => Sys2Proof.Machine.execAckNotice mask s
  | .setNoticeMask mask => Sys2Proof.Machine.execSetNoticeMask mask s
  | .quiesce => Sys2Proof.Machine.execQuiesce s
  | .softReset now => Sys2Proof.Machine.execSoftReset now s
  | .unknown code => Sys2Proof.Machine.execUnknown code s
  | .overrun => Sys2Proof.Machine.execOverrun s
  | .windowWrite offset value => Sys2Proof.Machine.execWindowWrite offset value s
  | .create key length fill count spec0 spec1 spec2 spec3 => Sys2Proof.Machine.execCreate key length fill count spec0 spec1 spec2 spec3 s
  | .entryStep => Sys2Proof.Machine.execEntryStep s
  | .info key => Sys2Proof.Machine.execInfo key s
  | .list after => Sys2Proof.Machine.execList after s
  | .retire key => Sys2Proof.Machine.execRetire key s
  | .retireAnswer => Sys2Proof.Machine.execRetireAnswer s
  | .storeSpace => Sys2Proof.Machine.execStoreSpace s
  | .openChange key newLength copyIn => Sys2Proof.Machine.execOpenChange key newLength copyIn s
  | .openChangeEntry => Sys2Proof.Machine.execOpenChangeEntry s
  | .writePiece key offset count => Sys2Proof.Machine.execWritePiece key offset count s
  | .readPiece key offset count source => Sys2Proof.Machine.execReadPiece key offset count source s
  | .verification => Sys2Proof.Machine.execVerification s
  | .closeChange key => Sys2Proof.Machine.execCloseChange key s
  | .closeAll => Sys2Proof.Machine.execCloseAll s
  | .swapStage => Sys2Proof.Machine.execSwapStage s
  | .abandonChange key => Sys2Proof.Machine.execAbandonChange key s
  | .auditStep => Sys2Proof.Machine.execAuditStep s
  | .readCounter key index => Sys2Proof.Machine.execReadCounter key index s
  | .adjustCounter key index delta => Sys2Proof.Machine.execAdjustCounter key index delta s
  | .setCounter key index value => Sys2Proof.Machine.execSetCounter key index value s
  | .swapCounter key index expected new => Sys2Proof.Machine.execSwapCounter key index expected new s
  | .setBounds key index floor ceiling => Sys2Proof.Machine.execSetBounds key index floor ceiling s
  | .tendAction => Sys2Proof.Machine.execTendAction s
  | .tendAnswer => Sys2Proof.Machine.execTendAnswer s
  | .readClock => Sys2Proof.Machine.execReadClock s
  | .setWall year month day hour minute second => Sys2Proof.Machine.execSetWall year month day hour minute second s
  | .setDayTurn turn => Sys2Proof.Machine.execSetDayTurn turn s
  | .secondEvent => Sys2Proof.Machine.execSecondEvent s
  | .minuteEvent reading => Sys2Proof.Machine.execMinuteEvent reading s
  | .armElapsed tag first interval action => Sys2Proof.Machine.execArmElapsed tag first interval action s
  | .armDaily tag period first action => Sys2Proof.Machine.execArmDaily tag period first action s
  | .armWall tag due action => Sys2Proof.Machine.execArmWall tag due action s
  | .findEvent tag => Sys2Proof.Machine.execFindEvent tag s
  | .eventInfo slot => Sys2Proof.Machine.execEventInfo slot s
  | .cancelEvent slot => Sys2Proof.Machine.execCancelEvent slot s
  | .readDue start => Sys2Proof.Machine.execReadDue start s
  | .ackDue slot count => Sys2Proof.Machine.execAckDue slot count s
  | .setDueThreshold threshold => Sys2Proof.Machine.execSetDueThreshold threshold s
  | .loadWave table => Sys2Proof.Machine.execLoadWave table s
  | .setVoice voice group conditioning refill => Sys2Proof.Machine.execSetVoice voice group conditioning refill s
  | .queueNotes voice count note1 note2 note3 => Sys2Proof.Machine.execQueueNotes voice count note1 note2 note3 s
  | .startVoices mask => Sys2Proof.Machine.execStartVoices mask s
  | .holdVoices mask => Sys2Proof.Machine.execHoldVoices mask s
  | .releaseVoices mask => Sys2Proof.Machine.execReleaseVoices mask s
  | .stopVoices mask => Sys2Proof.Machine.execStopVoices mask s
  | .setMaster volume => Sys2Proof.Machine.execSetMaster volume s
  | .readVoices => Sys2Proof.Machine.execReadVoices s
  | .readMarkers => Sys2Proof.Machine.execReadMarkers s
  | .setLink mode format offset now => Sys2Proof.Machine.execSetLink mode format offset now s
  | .readLink => Sys2Proof.Machine.execReadLink s
  | .loadPattern pattern count repeats => Sys2Proof.Machine.execLoadPattern pattern count repeats s
  | .playPattern pattern priority => Sys2Proof.Machine.execPlayPattern pattern priority s
  | .stopRumble => Sys2Proof.Machine.execStopRumble s
  | .setRumble strength kick => Sys2Proof.Machine.execSetRumble strength kick s
  | .readRumble => Sys2Proof.Machine.execReadRumble s
  | .readPower => Sys2Proof.Machine.execReadPower s
  | .cue => Sys2Proof.Machine.execCue s
  | .frameInstant => Sys2Proof.Machine.execFrameInstant s
  | .fsiStrobe arrival => Sys2Proof.Machine.execFsiStrobe arrival s
  | .substitution => Sys2Proof.Machine.execSubstitution s
  | .soundTick => Sys2Proof.Machine.execSoundTick s
  | .fadeComplete => Sys2Proof.Machine.execFadeComplete s
  | .rumbleUnit => Sys2Proof.Machine.execRumbleUnit s
  | .supplyReading reading => Sys2Proof.Machine.execSupplyReading reading s
  | .wakeEvent reading => Sys2Proof.Machine.execWakeEvent reading s
  | .consoleReset => Sys2Proof.Machine.execConsoleReset s
  | .consoleResetRelease => Sys2Proof.Machine.execConsoleResetRelease s
  | .retentionDoubtful faults => Sys2Proof.Machine.execRetentionDoubtful faults s
  | .keepDomainStop => Sys2Proof.Machine.execKeepDomainStop s
  | .cellReset => Sys2Proof.Machine.execCellReset s

end Sys2Proof.Machine
end

