-- ==== Sys2Proof/Safety.lean ====
section
/-! DEFINITION. What the statements mean by a part in good order: the conditions the manual states of the part as it stands
at every moment. Each is a plain condition on the data of State, and is kept by every step. -/

namespace Sys2Proof.Machine

open Sys2Proof

/-! ### Requests -/

/-- A submit made now is taken: the main domain is up, nCRST is not held, and no request is in hand (R178, R184, R185). -/
abbrev State.Accepts (s : State) : Prop :=
  s.power.main ≠ .off ∧ s.power.resetHeld = false ∧ s.window.work = none

/-- The state in which a request that is taken is served: the part woken if it dozed (R182), the submit taken (R185). -/
def State.serving (c : Instr) (s : State) : State := s.wake.taken (requestBytes c)

/-- The request, submitted in a state, gives the next state that `effect` makes of the state in which it is served. -/
abbrev ServedAs (c : Instr) (s : State) (effect : State → State) : Prop := exec c s = .next (effect (s.serving c))

/-- The request answers a result with its data and changes nothing else. -/
abbrev Answers (c : Instr) (s : State) (r : Result) (data : List Byte) : Prop :=
  ServedAs c s fun u => u.answer r data

/-! ### Keep memory, catalog and blocks (R1, R3, R4) -/

/-- Keep memory is in canonical form. -/
abbrev State.MemoryWf (s : State) : Prop := Memory.Wf s.store.memory

/-- A key a record can have (R4). -/
abbrev GoodKey (key : Nat) : Prop := 1 ≤ key ∧ key ≤ 65534

/-- A length a record or a shadow can have (R4). -/
abbrev GoodLength (length : Nat) : Prop := 1 ≤ length ∧ length ≤ Config.maxLength

/-- A shadow with a length in range and a block for every 64 bytes of it (R4, R19). -/
abbrev Shadow.Wf (sh : Shadow) : Prop := GoodLength sh.newLength ∧ sh.blocks.length = blocksFor sh.newLength

/-- A catalog entry with its fields in their ranges (R4). -/
abbrev Entry.Wf (e : Entry) : Prop :=
  GoodKey e.key ∧ GoodLength e.length ∧ e.blocks.length = blocksFor e.length ∧ e.generation ≤ 65535 ∧
    e.counters.length ≤ Config.counterCapacity ∧ ∀ sh ∈ e.shadow, sh.Wf

/-- The catalog in ascending key order with distinct keys, at most 96 records and 4 open changes, and every committed and
shadow block in one place only (R1, R3, R4). -/
abbrev Store.Wf (st : Store) : Prop :=
  st.catalog.Pairwise (fun a b => a.key < b.key) ∧ st.catalog.length ≤ Config.catalogCapacity ∧
    st.openCount ≤ Config.openCapacity ∧ (∀ e ∈ st.catalog, e.Wf) ∧ st.usedBlocks.Nodup

/-- Blocks selected and not yet entered: as many as a length takes, each free and taken once (R2, R8, R21). -/
abbrev Store.Selected (st : Store) (blocks : List Block) (length : Nat) : Prop :=
  blocks.length = blocksFor length ∧ blocks.Nodup ∧ ∀ b ∈ blocks, b ∉ st.usedBlocks

/-- A record is LIVE in the catalog, and one more change can be opened (R20). -/
abbrev Store.CanOpen (st : Store) (key : Nat) : Prop :=
  st.openCount < Config.openCapacity ∧ ∃ e ∈ st.catalog, e.key = key ∧ e.shadow = none

/-- The request in hand still meets the checks it passed (R8, R14, R21, R24, R28, R30, R181). -/
def Store.Backs (st : Store) : Work → Prop
  | .create key length blocks _ counters =>
    GoodKey key ∧ GoodLength length ∧ st.Selected blocks length ∧ counters.length ≤ Config.counterCapacity ∧
      (∀ e ∈ st.catalog, e.key ≠ key) ∧ st.catalog.length < Config.catalogCapacity
  | .openVerify key newLength _ =>
    GoodLength newLength ∧ st.CanOpen key ∧ blocksFor newLength ≤ st.freeBlocks.length
  | .openFill key newLength _ blocks => GoodLength newLength ∧ st.CanOpen key ∧ st.Selected blocks newLength
  | .readVerify key offset count => ∃ e ∈ st.catalog, e.key = key ∧ offset + count ≤ e.length
  | .close key _ => ∃ e ∈ st.catalog, e.key = key ∧ e.isOpen = true
  | .closeAll checks => checks.map Prod.fst = (st.catalog.filter Entry.isOpen).map Entry.key
  | .retire key _ => ∀ e ∈ st.catalog, e.key ≠ key
  | .quiesce => st.openCount = 0

/-- The record store in good order, with the request in hand (R1 to R4, R8, R21). -/
abbrev State.StoreWf (s : State) : Prop := s.store.Wf ∧ ∀ w ∈ s.window.work, s.store.Backs w

/-- An OPEN record has its audited mark set while the audit runs, and so has one whose change is being opened (R36). -/
abbrev State.AuditWf (s : State) : Prop :=
  s.store.auditFlag = true →
    (∀ e ∈ s.store.catalog, e.isOpen = true → e.audited = true) ∧
    ∀ key newLength copyIn blocks, s.window.work = some (.openFill key newLength copyIn blocks) →
      ∀ e ∈ s.store.catalog, e.key = key → e.audited = true

/-- An address in none of the blocks of a list (R1). -/
abbrev OutsideBlocks (blocks : List Block) (a : Nat) : Prop := ∀ b ∈ blocks, a < 64 * b.val ∨ 64 * b.val + 64 ≤ a

/-- Keep memory after a fill stage of OPEN-CHANGE: every byte of the selected blocks holds the committed byte of its place,
with copy-in and below both lengths, and 0 otherwise; no byte outside those blocks has changed (R21). -/
abbrev ShadowFilled (before after : Memory) (e : Entry) (blocks : List Block) (newLength : Nat) (copyIn : Bool) : Prop :=
  (∀ i < 64 * blocks.length, payloadByte after blocks i =
    if copyIn = true ∧ i < min e.length newLength then payloadByte before e.blocks i else 0) ∧
  ∀ a, OutsideBlocks blocks a → Memory.read after a = Memory.read before a

/-- The store with one entry of the catalog changed, and nothing else. -/
def Store.withEntry (st : Store) (key : Nat) (f : Entry → Entry) : Store :=
  { st with catalog := st.catalog.map fun e => if e.key = key then f e else e }

/-- The store with one counter replaced, and nothing else. -/
def Store.withCounter (st : Store) (key index : Nat) (c : Counter) : Store :=
  st.withEntry key fun e => { e with counters := e.counters.set index c }

/-! ### Counters (R43) -/

/-- A counter's value lies within its floor and ceiling, and these within 16 signed bits (R43). -/
abbrev Counter.Wf (c : Counter) : Prop :=
  -32768 ≤ c.floor ∧ c.floor ≤ c.value ∧ c.value ≤ c.ceiling ∧ c.ceiling ≤ 32767

/-- The counters of a CREATE in hand. -/
def Work.counters : Work → List Counter
  | .create _ _ _ _ counters => counters
  | _ => []

/-- Every counter of the catalog, and of a CREATE in hand, is in good order (R43). -/
abbrev State.CountersWf (s : State) : Prop :=
  (∀ e ∈ s.store.catalog, ∀ c ∈ e.counters, c.Wf) ∧ ∀ w ∈ s.window.work, ∀ c ∈ w.counters, c.Wf

/-! ### Calendar (chapter 4) -/

/-- The calendar's items in their ranges; the wall clock never below 0; the end mark set exactly while T + W is above the
top (R58 to R61, R65). -/
abbrev Calendar.Wf (c : Calendar) : Prop :=
  c.trueSecond ≤ Config.maxSecond ∧ c.minutePhase < 60 ∧ c.dayTurn ≤ 1439 ∧
    (c.trueSecond < Config.maxSecond → c.minutePhase = c.trueSecond % 60) ∧
    (c.state = .unset → c.wallOffset = 0) ∧ c.wallOffset ≤ Config.topWall ∧ 0 ≤ c.trueSecond + c.wallOffset ∧
    (c.endMark = true ↔ c.state = .set ∧ (Config.topWall : Int) < c.trueSecond + c.wallOffset)

/-! ### Events (R80, R81, R100) -/

/-- A game day an anchor or a last-served day can be (R80). -/
abbrev GoodDay (day : Int) : Prop := -255 ≤ day ∧ day ≤ 36779

/-- A schedule with its fields in their ranges; the last-served day a whole number of periods after the anchor (R80,
R94). -/
def Schedule.Wf : Schedule → Prop
  | .elapsed next interval => 1 ≤ next ∧ next ≤ 4311744510 ∧ interval ≤ 16777215
  | .daily anchor period lastServed =>
    GoodDay anchor ∧ GoodDay lastServed ∧ 1 ≤ period ∧ period ≤ 255 ∧ anchor ≤ lastServed ∧
      (period : Int) ∣ lastServed - anchor
  | .wallOnce due => due ≤ Config.topWall

/-- An action with the key and the step of a TEND in their ranges (R80, R82); TargetsWf has its index. -/
def Action.Wf : Action → Prop
  | .notify => True
  | .tend key _ step => GoodKey key ∧ -128 ≤ step ∧ step ≤ 127

/-- An event in good order: the pending count lies between 1 and 255 when it is DUE and is 0 otherwise, and a finished
event is DUE (R80, R81). -/
abbrev Event.Wf (e : Event) : Prop :=
  1 ≤ e.tag ∧ e.tag ≤ 65535 ∧ e.firstDue ≤ Config.maxSecond ∧ e.schedule.Wf ∧ e.pendingCount ≤ Config.pendingMax ∧
    (e.state = .due ↔ 1 ≤ e.pendingCount) ∧ (e.finished = true → e.state = .due) ∧ e.action.Wf

/-- Every event of the table is in good order, and no two hold one tag (R80, R81). -/
abbrev Engine.TableWf (en : Engine) : Prop :=
  (∀ i, ∀ e ∈ en.slots.get i, e.Wf) ∧
    ∀ i j, ∀ e ∈ en.slots.get i, ∀ f ∈ en.slots.get j, e.tag = f.tag → i = j

/-- An arming request whose schedule operands are `bad` or not, which needs the wall clock or not, and which asks for a
schedule with its schedule point: the checks of R82 in order, and then the arming step in the lowest-numbered FREE slot, the
evaluation that arming performs, and the answer (R82, R83). -/
def ArmedAs (c : Instr) (s : State) (tag : Half) (bad needsWall : Bool) (schedule : Schedule) (point : List Byte)
    (a : ActionBytes) : Prop :=
  if tag = 0 ∨ bad = true ∨ 1 < a.action.toNat ∨ (a.action = 1 ∧ (a.key = 0 ∨ a.key = 0xFFFF)) then Answers c s .range []
  else if needsWall = true ∧ s.calendar.state = .unset then Answers c s .unset []
  else if ∃ i, ∃ e ∈ s.engine.slots.get i, e.tag = tag.toNat then Answers c s .tagTaken []
  else if ∀ i, s.engine.slots.get i ≠ none then Answers c s .tableFull []
  else if a.action = 1 ∧ s.store.find a.key.toNat = none then Answers c s .noRecord []
  else if a.action = 1 ∧ (∀ r, s.store.find a.key.toNat = some r → r.counters.length ≤ a.index.toNat) then
    Answers c s .noCounter []
  else
    ∀ slot, s.engine.slots.get slot = none → (∀ j < slot, s.engine.slots.get j ≠ none) →
      ∀ u v, u = s.serving c →
        v = { u with
          engine :=
            { u.engine with
              slots := u.engine.slots.set slot (some
                { tag := tag.toNat, state := .armed, schedule := schedule, finished := false, pendingCount := 0,
                  firstDue := 0, targetLost := false
                  action := if a.action = 1 then .tend a.key.toNat a.index.toNat a.step.toInt else .notify }) } } →
        ∃ e, v.evaluate.engine.slots.get slot = some e ∧
          exec c s =
            .next (v.evaluate.answer .ok ([nat1 slot.val, e.state.code, nat1 e.pendingCount] ++ point))

/-- A slot's event is DUE. -/
def Engine.isDue (en : Engine) (i : Slot) : Bool := (en.slots.get i).any fun e => e.state == .due

/-- The due list holds every DUE event exactly once and no other, in ascending order of first-due second and, among equals,
of slot; the threshold is from 1 to 48 (R100, R104). -/
abbrev Engine.DueListWf (en : Engine) : Prop :=
  en.dueList.Pairwise (fun i j => dueBefore en.slots i j = true) ∧
    (∀ i, i ∈ en.dueList ↔ en.isDue i = true) ∧ 1 ≤ en.threshold ∧ en.threshold ≤ 48

/-- No event names a key absent from the catalog, or a counter its record has not (R15, R98). -/
abbrev State.TargetsWf (s : State) : Prop :=
  ∀ i, ∀ e ∈ s.engine.slots.get i, ∀ key index step, e.action = .tend key index step →
    ∃ r ∈ s.store.catalog, r.key = key ∧ index < r.counters.length

/-! ### Sound (chapters 6 and 7) -/

/-- A voice is, or is held as, STARVED (R106, R107). -/
def VoiceState.starvedNow : VoiceState → Bool
  | .starved => true
  | .held .starved => true
  | .idle => false
  | .playing => false
  | .held .playing => false

/-- The noise register is never all zeros; under NOISE-SHORT nor are its bits 0 to 6 (R134). -/
abbrev Voice.NoiseWf (v : Voice) : Prop :=
  v.noise ≠ 0 ∧ ∀ n ∈ v.current, n.timbre = .noiseShort → v.noise &&& 0x7F ≠ 0

/-- A voice in good order (R106 to R108, R117). -/
abbrev Voice.Wf (v : Voice) : Prop :=
  v.queue.length ≤ Config.queueCapacity ∧ (v.state.starvedNow = true → v.queue = []) ∧
    (v.state = .idle → v.current = none ∧ v.spent = false) ∧ (v.startMark = true → v.state = .idle) ∧
    (v.spent = true → v.current.isSome = true) ∧ v.lengthCounter ≤ 255 ∧ v.paceCounter ≤ 28 ∧
    (v.refill = 0 ∨ v.refill = 4 ∨ v.refill = 8 ∨ v.refill = 12) ∧
    (∀ n ∈ v.queue, n.pitch.toNat ≤ Config.maxPitch ∧ n.length ≤ 255) ∧
    (∀ n ∈ v.current, n.pitch.toNat ≤ Config.maxPitch ∧ n.length ≤ 255) ∧ v.NoiseWf

/-- The sound engine in good order (R107, R120, R134, R137, R138, R140). -/
abbrev Sound.Wf (so : Sound) : Prop :=
  (∀ i, (so.voices.get i).Wf) ∧ so.markers.length ≤ Config.markerCapacity ∧ so.master ≤ Config.maxMaster ∧
    (∀ m ∈ so.savedMaster, m ≤ Config.maxMaster) ∧ so.clipped ≤ Config.maxClipped

/-! ### Audio link (chapter 8) -/

/-- The link in good order: phases, runs and slips in their ranges; OWN is MASTER with no reference; SLAVE is FOLLOW with
one (R144, R146 to R149, R151). -/
abbrev Link.Wf (l : Link) : Prop :=
  l.tickPhase < 128 ∧ l.unitPhase < 4 ∧ l.slips ≤ Config.maxSlips ∧ l.goodRun ≤ Config.goodRunFull ∧
    l.substitutionRun < Config.substitutionFull ∧
    (l.mode = .own → l.state = .master ∧ l.reference = none) ∧
    (l.state = .slave → l.mode = .follow ∧ l.reference.isSome = true ∧ l.goodRun = 0) ∧
    (l.state ≠ .slave → l.substitutionRun = 0) ∧ (l.reference = none → l.goodRun = 0)

/-! ### Rumble (chapter 9) -/

/-- A pattern in good order (R155). -/
abbrev Pattern.Wf (p : Pattern) : Prop :=
  p.steps.length ≤ Config.stepCapacity ∧ p.repeats ≤ Config.endlessRepeat ∧
    ∀ st ∈ p.steps, st.level ≤ 255 ∧ 1 ≤ st.duration ∧ st.duration ≤ 255

/-- The plays left lie in their range (R157). -/
def Plays.Wf : Plays → Prop
  | .endless => True
  | .left n => n ≤ 14

/-- The current request plays a loaded pattern; once started it stands at one of its steps with units left (R157). -/
abbrev Rumble.CurrentWf (r : Rumble) (c : CurrentRequest) : Prop :=
  r.loaded c.request.pattern = true ∧
    ∀ p ∈ c.playing,
      p.position < (r.patterns.get c.request.pattern).steps.length ∧ 1 ≤ p.unitsLeft ∧ p.unitsLeft ≤ 255 ∧ p.plays.Wf

/-- The rumble driver in good order: the queue at most 4 long, in descending priority, of loaded patterns, and empty while
nothing is current (R155, R157 to R159, R165, R170). -/
abbrev Rumble.Wf (r : Rumble) : Prop :=
  (∀ i, (r.patterns.get i).Wf) ∧ (∀ c ∈ r.current, r.CurrentWf c) ∧ r.queue.length ≤ Config.waitingCapacity ∧
    r.queue.Pairwise (fun a b => b.priority ≤ a.priority) ∧ (∀ q ∈ r.queue, r.loaded q.pattern = true) ∧
    (r.current = none → r.queue = [] ∧ r.kick = false) ∧ (r.kick = true → r.kickSetting = true) ∧
    r.ceiling ≤ 255 ∧ r.strength ≤ 15 ∧ r.droppedCues ≤ Config.maxDropped

/-- The driver `r` with a step start: the request stands at a step of its pattern with that step's duration and these plays
left, and the kick mark is set exactly when the kick setting is on, the duty just before was 0 and the lower of ceiling and
requested duty of the new step is above 0 (R161, R164, R167). -/
def Rumble.begins (r : Rumble) (dutyBefore : Nat) (q : RumbleRequest) (step : RumbleStep) (position : Nat)
    (plays : Plays) : Rumble :=
  { r with
    current :=
      some { request := q, playing := some { position := position, unitsLeft := step.duration, plays := plays } }
    kick :=
      decide (r.kickSetting = true ∧ dutyBefore = 0 ∧ 0 < min r.ceiling ((step.level * r.strength + 7) / 15)) }

/-! ### Main reset and power-going (R176 to R178) -/

/-- `t` is `s` after a main reset: every main block at its main reset values; open changes abandoned and counted, held at 4;
KEEP pending with the details of the marks that are set; the audit begun with every audited mark clear, unless the catalog is
empty; the first reading awaited; and the evaluation at main power return made. -/
abbrev MainResetOf (s t : State) : Prop :=
  ∀ (lost : Nat) (keep : KeepCause), lost = min 4 (s.store.changesLost + s.store.openCount) →
    keep =
      { pending := s.store.keepLost || decide (0 < lost) || s.power.retentionDoubtful, damageFound := false,
        keepLost := s.store.keepLost, changesLost := decide (0 < lost),
        retentionDoubtful := s.power.retentionDoubtful } →
    t =
      { s with
        window := .reset
        notices := { Notices.reset with keep := keep }
        sound := .reset
        link := .reset
        rumble := .reset
        store :=
          { s.store with
            catalog := s.store.catalog.map fun (e : Entry) => { e with shadow := none, audited := false }
            changesLost := lost
            auditFlag := !s.store.catalog.isEmpty
            auditPosition := 0 }
        power := { s.power with main := .run, firstReading := true } }.evaluate

/-- `t` is `s` after power-going: the main domain OFF and its state lost, open changes abandoned and counted, held at 4,
and nothing else of the keep domain changed. -/
abbrev PowerGoingOf (s t : State) : Prop :=
  t =
    { s with
      window := .reset
      notices := .reset
      sound := .reset
      link := { Link.reset with outputsHold := true }
      rumble := .reset
      store :=
        { s.store with
          catalog := s.store.catalog.map fun (e : Entry) => { e with shadow := none }
          changesLost := min 4 (s.store.changesLost + s.store.openCount) }
      power := { s.power with main := .off, firstReading := false } }

/-! ### DOZE (R172, R181, R182) -/

/-- The part dozes or is in the fade of a QUIESCE. -/
abbrev State.Quieting (s : State) : Prop := s.power.main = .doze ∨ s.window.work = some .quiesce

/-- In the fade and in DOZE no change is open, the driver is STILL with its quiet mark set and the master volume is saved;
in DOZE no request is in hand and the master volume is 0; the quiet mark and the saved master stand at no other time; a
request is in hand only in RUN (R138, R172, R181, R182). -/
abbrev State.DozeWf (s : State) : Prop :=
  (s.Quieting → s.store.openCount = 0 ∧ s.rumble.current = none ∧ s.rumble.quiet = true ∧
    s.sound.savedMaster.isSome = true) ∧
    (s.power.main = .doze → s.window.work = none ∧ s.sound.master = 0) ∧
    (s.rumble.quiet = true → s.Quieting) ∧ (s.sound.savedMaster.isSome = true → s.Quieting) ∧
    (s.window.work ≠ none → s.power.main = .run)

end Sys2Proof.Machine
end

