-- ==== Sys2Proof/Certificates/Slice0/Obligations.lean ====
section
/-! DEFINITION. The statements for the provers. A statement about a request speaks of the state in which it is served
(State.serving): the request's bytes laid from offset 1 and the submit taken, in one command (the model's choice, log 1).
Where a statement rests on another choice of the model its docstring names the log entry. -/

open Sys2Proof Sys2Proof.Machine

/-! ### The queue, reset, the window -/

/-- The step executes the command at the front of the queue on the state with the queue's rest; on an empty queue the
part idles (the model's choice, log 3). -/
def Obligations.StepExecutesFrontCommand : Prop :=
  (∀ (c : Instr) (rest : List Instr) (s : State),
    s.pending = c :: rest → step s = exec c { s with pending := rest }) ∧
  ∀ s : State, s.pending = [] → step s = .next s

/-- Right after a cell reset: the calendar at its cell-reset values, every slot FREE, the due list empty with
threshold 1, the catalog empty with 1024 free blocks, only keep-lost set, the latest reading 0 and 0, the main domain
OFF. What a main reset gives the main domain's blocks: the window IDLE and all zeros, no cause pending and nothing
enabled, the voices IDLE with their settings at A, SILENCE and 0 and noise registers all ones, the wave tables 0,
master volume 16, the link FOLLOW and SEEKING, no pattern loaded, strength 15. That State.reset is the moment right
after a cell reset, and that a main-domain item stands at its main reset value while the main domain is OFF, are the
model's choices (log 4, log 5). -/
def Obligations.ResetValues : Prop :=
  ((State.reset.calendar.trueSecond = 0 ∧ State.reset.calendar.minutePhase = 0 ∧
     State.reset.calendar.state = .unset ∧ State.reset.calendar.wallOffset = 0 ∧
     State.reset.calendar.dayTurn = 0 ∧ State.reset.calendar.endMark = false) ∧
   ((∀ i, State.reset.engine.slots.get i = none) ∧ State.reset.engine.dueList = [] ∧
     State.reset.engine.threshold = 1 ∧ State.reset.engine.tends = []) ∧
   (State.reset.store.catalog = [] ∧ State.reset.store.freeBlocks.length = 1024 ∧ State.reset.store.openCount = 0 ∧
     State.reset.store.changesLost = 0 ∧ State.reset.store.keepLost = true ∧ State.reset.store.auditFlag = false) ∧
   (State.reset.power.main = .off ∧ State.reset.power.reading = ⟨0, 0⟩ ∧ State.reset.power.cellLow = false ∧
     State.reset.power.retentionDoubtful = false)) ∧
  ((Window.reset.state = .idle ∧ Window.reset.overrun = false ∧ (∀ i, Window.reset.request.get i = 0) ∧
     (∀ i, Window.reset.answer.get i = 0) ∧ ∀ i, Window.reset.buffer.get i = 0) ∧
   (Notices.reset.enable = 0 ∧ Notices.reset.power.pending = false ∧ Notices.reset.link.pending = false ∧
     Notices.reset.starved.pending = false ∧ Notices.reset.rumble.pending = false) ∧
   (∀ v, Sound.reset.voices.get v =
     { state := .idle, queue := [], current := none, spent := false, lengthCounter := 0, paceCounter := 0, volume := 0,
       phase := 0, noise := 0x7FFF, startMark := false, group := .a, conditioning := .silence, refill := 0 }) ∧
   ((∀ w p, (Sound.reset.waves.get w).get p = 0) ∧ Sound.reset.markers = [] ∧ Sound.reset.dropped = false ∧
     Sound.reset.master = 16 ∧ Sound.reset.savedMaster = none ∧ Sound.reset.clipped = 0) ∧
   (Link.reset.mode = .follow ∧ Link.reset.state = .seeking ∧ Link.reset.format = .pair ∧ Link.reset.offset = 0 ∧
     Link.reset.slips = 0 ∧ Link.reset.goodRun = 0 ∧ Link.reset.substitutionRun = 0 ∧ Link.reset.reference = none ∧
     Link.reset.tickPhase = 0 ∧ Link.reset.unitPhase = 0) ∧
   ((∀ i, (Rumble.reset.patterns.get i).steps = []) ∧ Rumble.reset.current = none ∧ Rumble.reset.queue = [] ∧
     Rumble.reset.strength = 15 ∧ Rumble.reset.kickSetting = false ∧ Rumble.reset.kick = false ∧
     Rumble.reset.quiet = false ∧ Rumble.reset.supplyLow = false ∧ Rumble.reset.ceiling = 0 ∧
     Rumble.reset.droppedCues = 0))

/-- Every invariant of the statements below holds right after a cell reset. -/
def Obligations.InvariantsHoldAtReset : Prop :=
  State.reset.MemoryWf ∧ State.reset.StoreWf ∧ State.reset.AuditWf ∧ State.reset.CountersWf ∧
  State.reset.calendar.Wf ∧ State.reset.engine.TableWf ∧ State.reset.engine.DueListWf ∧ State.reset.TargetsWf ∧
  State.reset.sound.Wf ∧ State.reset.link.Wf ∧ State.reset.rumble.Wf ∧ State.reset.DozeWf

/-- A request to a window that is unpowered or held in reset does nothing; to a BUSY window it sets the overrun mark
and does nothing else. OVERRUN: a write to offset 0 of a BUSY window sets the overrun mark and does nothing else.
UNKNOWN: a submit whose code names no request is answered UNKNOWN at once with no data. That the request's bytes and
its submit are one command is the model's choice (log 1). -/
def Obligations.SubmitsNotServed : Prop :=
  (∀ (c : Instr) (s : State), requestBytes c ≠ [] → c.wellFormed = true →
     (s.power.main = .off ∨ s.power.resetHeld = true → exec c s = .next s) ∧
     (s.power.main ≠ .off → s.power.resetHeld = false → s.window.work ≠ none →
       exec c s = .next { s with window := { s.window with overrun := true } })) ∧
  ((∀ s : State, s.power.main ≠ .off → s.power.resetHeld = false → s.window.work ≠ none →
     exec .overrun s = .next { s with window := { s.window with overrun := true } }) ∧
   ∀ (code : Byte) (s : State), s.Accepts → code ∉ requestCodes → Answers (.unknown code) s .unknown [])

/-- A submit that is taken is served in RUN: the request area holds the request's bytes, the answer area is all zeros,
the overrun mark is clear; from DOZE the saved master is restored and the quiet mark cleared; nothing else has
changed. -/
def Obligations.SubmitIsTakenInRun : Prop :=
  ∀ (c : Instr) (s : State), s.Accepts → (requestBytes c).length ≤ 31 →
    (s.serving c).power = { s.power with main := .run } ∧
    (s.serving c).sound =
      (if s.power.main = .doze then
        { s.sound with master := s.sound.savedMaster.getD s.sound.master, savedMaster := none }
       else s.sound) ∧
    (s.serving c).rumble = (if s.power.main = .doze then { s.rumble with quiet := false } else s.rumble) ∧
    (s.serving c).window.request.items =
      requestBytes c ++ s.window.request.items.drop (requestBytes c).length ∧
    (∀ i, (s.serving c).window.answer.get i = 0) ∧ (s.serving c).window.overrun = false ∧
    (s.serving c).window.buffer = s.window.buffer ∧ (s.serving c).window.work = none ∧
    (s.serving c).calendar = s.calendar ∧ (s.serving c).engine = s.engine ∧ (s.serving c).store = s.store ∧
    (s.serving c).notices = s.notices ∧ (s.serving c).link = s.link ∧ (s.serving c).pending = s.pending

/-- Reads of the window: nothing while the main domain is OFF (that a read is no command but a function of the state,
and gives none while OFF, is the model's choice, log 26); the status byte at offset 0 in every state, its fields as
they are at the read, bits 2-0 the highest pending cause less 1 and 0 with none pending; 0 from the request area
always and from every other offset while BUSY; else answer area and transfer buffer as they stand. After an answer is
placed the console reads DONE at offset 0, the result code at offset 32, the data from offset 33 with no gap, and 0
beyond it. The result codes are those of the table of 11.4, 0 OK to 21 NO-PATTERN. Where a rule places bytes in the
transfer buffer they stand from offset 64 on, 0 in every byte after them, and nothing else of the window changes. -/
def Obligations.WindowAsTheConsoleReadsIt : Prop :=
  (∀ (s : State) (o : BitVec 7),
     (s.power.main = .off → s.windowRead o = none) ∧
     (s.power.main ≠ .off →
       s.windowRead 0 = some s.statusByte ∧
       (1 ≤ o.toNat → o.toNat < 32 → s.windowRead o = some 0) ∧
       (32 ≤ o.toNat → s.window.work ≠ none → s.windowRead o = some 0) ∧
       (∀ i : Fin 32, s.window.work = none → o.toNat = 32 + i.val → s.windowRead o = some (s.window.answer.get i)) ∧
       (∀ i : Fin 64, s.window.work = none → o.toNat = 64 + i.val → s.windowRead o = some (s.window.buffer.get i))) ∧
     s.statusByte.extractLsb' 6 2 =
       (if s.window.work ≠ none then 1 else if s.window.answered = true then 2 else 0) ∧
     s.statusByte.getLsbD 5 = s.window.overrun ∧ s.statusByte.getLsbD 4 = s.store.auditFlag ∧
     (s.statusByte.getLsbD 3 = true ↔ s.pendingMask ≠ 0) ∧
     (∀ n : Fin 8, s.pendingMask.getLsbD n.val = true → (∀ m : Fin 8, m < n → s.pendingMask.getLsbD m.val = false) →
       s.statusByte.extractLsb' 0 3 = BitVec.ofNat 3 n.val) ∧
     (s.pendingMask = 0 → s.statusByte.extractLsb' 0 3 = 0)) ∧
  (∀ (s : State) (r : Result) (data : List Byte), s.power.main ≠ .off → data.length ≤ 31 →
     (s.answer r data).windowRead 32 = some r.code ∧
     (∀ (j : Nat) (h : j < data.length), (s.answer r data).windowRead (BitVec.ofNat 7 (33 + j)) = some data[j]) ∧
     (∀ j : Nat, data.length ≤ j → j < 31 → (s.answer r data).windowRead (BitVec.ofNat 7 (33 + j)) = some 0) ∧
     (s.answer r data).statusByte.extractLsb' 6 2 = 2) ∧
  ([.ok, .part, .done, .range, .unknown, .noRecord, .existsAlready, .isOpen, .notOpen, .noSpace, .catalogFull,
     .openLimit, .noCounter, .mismatch, .unset, .tagTaken, .tableFull, .noEvent, .notDue, .changesOpen, .queueFull,
     .noPattern].map Result.code = (List.range 22).map (BitVec.ofNat 8)) ∧
  ∀ (w : Window) (bytes : List Byte),
    (∃ buffer, w.fillBuffer bytes = { w with buffer := buffer }) ∧
    ∀ i : Fin 64,
      (∀ h : i.val < bytes.length, (w.fillBuffer bytes).buffer.get i = bytes[i.val]) ∧
      (bytes.length ≤ i.val → (w.fillBuffer bytes).buffer.get i = 0)

/-- WINDOW_WRITE to a window that is up, not held and not BUSY stores its byte at its place in the request area or the
transfer buffer and nowhere else, and not in the answer area; it wakes nothing; in the other states it does nothing.
-/
def Obligations.WindowWriteStoresOneByte : Prop :=
  ∀ (offset : BitVec 7) (value : Byte) (s : State), offset ≠ 0 →
    (s.Accepts → ∃ w : Window,
      exec (.windowWrite offset value) s = .next { s with window := w } ∧
      (∀ i : Fin 31, w.request.get i = if offset.toNat = i.val + 1 then value else s.window.request.get i) ∧
      (∀ i : Fin 64, w.buffer.get i = if offset.toNat = i.val + 64 then value else s.window.buffer.get i) ∧
      w.answer = s.window.answer ∧ w.work = s.window.work ∧ w.answered = s.window.answered ∧
      w.overrun = s.window.overrun) ∧
    (¬ s.Accepts → exec (.windowWrite offset value) s = .next s)

/-! ### General requests and notices -/

/-- IDENTIFY answers the vendor code, the part code, the revision and the capacities, and changes nothing. READ-STATUS
answers the pending-cause mask, the enable mask, the highest pending cause, the audit flag and position, the
damaged-records flag, the open change count and the due list length, and changes nothing. -/
def Obligations.IdentityAndStatus : Prop :=
  (∀ s : State, s.Accepts →
     Answers .identify s .ok [0x5D, 0x1A, 0x0C, 0x24, 1, 4, 0, 96, 48, 8, 16]) ∧
  (∀ s : State, s.Accepts → ∃ highest : Byte,
     Answers .readStatus s .ok
       ([(s.serving .readStatus).pendingMask, s.notices.enable, highest, flag1 s.store.auditFlag] ++
         nat2 s.store.auditPosition ++
         [flag1 (s.store.catalog.any fun e => e.damage), nat1 (s.store.catalog.countP fun e => e.shadow.isSome),
           nat1 s.engine.dueList.length]) ∧
     ((s.serving .readStatus).pendingMask = 0 → highest = 0) ∧
     ∀ n : Fin 8, (s.serving .readStatus).pendingMask.getLsbD n.val = true →
       (∀ m : Fin 8, m < n → (s.serving .readStatus).pendingMask.getLsbD m.val = false) →
       highest = BitVec.ofNat 8 (n.val + 1))

/-- Each cause is pending as its kind says: an edge cause while its pending mark stands, DUE while the due list is at
or above the threshold, REFILL while a voice that is PLAYING or STARVED holds fewer entries than its threshold, MARKER
while the marker list is not empty. nNOTE is driven low exactly while a cause is pending whose bit is set in the
enable mask, the main domain is RUN or DOZE and nCRST is not held. -/
def Obligations.CausesAndTheNoticeLine : Prop :=
  (∀ s : State,
     s.pendingMask.getLsbD 0 = s.notices.power.pending ∧ s.pendingMask.getLsbD 1 = s.notices.keep.pending ∧
     s.pendingMask.getLsbD 2 = s.notices.link.pending ∧ s.pendingMask.getLsbD 3 = s.notices.starved.pending ∧
     (s.pendingMask.getLsbD 4 = true ↔ s.engine.threshold ≤ s.engine.dueList.length) ∧
     (s.pendingMask.getLsbD 5 = true ↔
       ∃ v, ((s.sound.voices.get v).state = .playing ∨ (s.sound.voices.get v).state = .starved) ∧
         0 < (s.sound.voices.get v).refill ∧ (s.sound.voices.get v).queue.length < (s.sound.voices.get v).refill) ∧
     (s.pendingMask.getLsbD 6 = true ↔ s.sound.markers ≠ []) ∧
     s.pendingMask.getLsbD 7 = s.notices.rumble.pending) ∧
  (∀ s : State, s.noticeLine = true ↔
     s.power.main ≠ .off ∧ s.power.resetHeld = false ∧
       ∃ n : Fin 8, s.pendingMask.getLsbD n.val = true ∧ s.notices.enable.getLsbD n.val = true)

/-- The detail block for a mask of causes, byte by byte: POWER's details (rumble halted, rumble resumed, cell low),
KEEP's (damage found, keep lost, changes lost, retention doubtful), the store's changes-lost mark, LINK's (lost,
regained), STARVED's voice mask, the due list length and the threshold, the mask of voices in the REFILL condition,
the marker list length, RUMBLE's "done"; zeros in place of every cause outside the mask. READ-NOTICES answers both
masks and the detail block of the pending causes and changes nothing. SET-NOTICE-MASK replaces the enable mask and
answers the old and the new one, the pending mask and the line. ACK-NOTICE clears the named edge causes that are
pending, with their details; for KEEP also the changes-lost, keep-lost and retention-doubtful marks; nothing else
changes; it answers the mask cleared, the detail block of those causes as it stood before, and the pending mask after.
-/
def Obligations.NoticeRequests : Prop :=
  (∀ (s : State) (mask refill : Byte),
    (∀ v : VoiceNo, refill.getLsbD v.val = true ↔
      ((s.sound.voices.get v).state = .playing ∨ (s.sound.voices.get v).state = .starved) ∧
        0 < (s.sound.voices.get v).refill ∧ (s.sound.voices.get v).queue.length < (s.sound.voices.get v).refill) →
    s.detailBlock mask =
      [if mask.getLsbD 0 then
          BitVec.ofNat 8 (s.notices.power.halted.toNat + 2 * s.notices.power.resumed.toNat +
            4 * s.notices.power.cellLow.toNat)
        else 0,
        if mask.getLsbD 1 then
          BitVec.ofNat 8 (s.notices.keep.damageFound.toNat + 2 * s.notices.keep.keepLost.toNat +
            4 * s.notices.keep.changesLost.toNat + 8 * s.notices.keep.retentionDoubtful.toNat)
        else 0,
        if mask.getLsbD 1 then BitVec.ofNat 8 s.store.changesLost else 0,
        if mask.getLsbD 2 then
          BitVec.ofNat 8 (s.notices.link.lost.toNat + 2 * s.notices.link.regained.toNat)
        else 0,
        if mask.getLsbD 3 then s.notices.starved.voices else 0,
        if mask.getLsbD 4 then BitVec.ofNat 8 s.engine.dueList.length else 0,
        if mask.getLsbD 4 then BitVec.ofNat 8 s.engine.threshold else 0,
        if mask.getLsbD 5 then refill else 0,
        if mask.getLsbD 6 then BitVec.ofNat 8 s.sound.markers.length else 0,
        if mask.getLsbD 7 then BitVec.ofNat 8 s.notices.rumble.done.toNat else 0]) ∧
  (∀ s : State, s.Accepts →
    Answers .readNotices s .ok
      ([(s.serving .readNotices).pendingMask, s.notices.enable] ++
        (s.serving .readNotices).detailBlock (s.serving .readNotices).pendingMask)) ∧
  (∀ (mask : Byte) (s : State), s.Accepts →
    ServedAs (.setNoticeMask mask) s fun u =>
      { u with notices := { u.notices with enable := mask } }.answer .ok
        [u.notices.enable, mask, u.pendingMask, flag1 (u.pendingMask &&& mask != 0)]) ∧
  ∀ (mask : Byte) (s : State) (cleared : Byte) (u v : State), s.Accepts → u = s.serving (.ackNotice mask) →
    cleared = mask &&& 0x8F &&& u.pendingMask →
    v = { u with
      notices :=
        { enable := u.notices.enable
          power := if cleared.getLsbD 0 then ⟨false, false, false, false⟩ else u.notices.power
          keep := if cleared.getLsbD 1 then ⟨false, false, false, false, false⟩ else u.notices.keep
          link := if cleared.getLsbD 2 then ⟨false, false, false⟩ else u.notices.link
          starved := if cleared.getLsbD 3 then ⟨false, 0⟩ else u.notices.starved
          rumble := if cleared.getLsbD 7 then ⟨false, false⟩ else u.notices.rumble }
      store := if cleared.getLsbD 1 then { u.store with changesLost := 0, keepLost := false } else u.store
      power := if cleared.getLsbD 1 then { u.power with retentionDoubtful := false } else u.power } →
    exec (.ackNotice mask) s = .next (v.answer .ok ([cleared] ++ u.detailBlock cleared ++ [v.pendingMask]))

/-- SOFT-RESET is answered OK with no data: every voice IDLE with nothing queued or current, spent and start marks
clear, its settings, phase, noise register and all else kept; the marker list empty and its dropped mark clear; the
link SEEKING or MASTER by its mode with slips, runs and reference cleared; the driver as STOP-RUMBLE, the quiet mark
clear. Everything else is kept, the cues already offered, the saved master, the phases and what the link has handed on
among it. From SLAVE the own timing takes over (R150): its first frame instant falls one period after the reference
instant, or, when that has passed, is made at the step; the voices then rest before it or after it, which R189 leaves
open (log 14), and the statement holds for either. That the parts are taken in one step and the step's instant is an
operand are the model's choices (log 11, log 14). -/
def Obligations.SoftResetRests : Prop :=
  ∀ (now : Instant) (s u : State) (rested : Sound → Sound) (linked : Link) (stilled : State → State), s.Accepts →
    u = s.serving (.softReset now) →
    (∀ so, rested so =
      { so with
        voices := so.voices.map fun (v : Voice) =>
          { v with queue := [], current := none, spent := false, startMark := false, state := .idle }
        markers := []
        dropped := false }) →
    linked =
      { u.link with
        state := if u.link.mode = .follow then .seeking else .master
        slips := 0, goodRun := 0, substitutionRun := 0, reference := none } →
    (∀ x, stilled x =
      { x with rumble := { x.rumble with current := none, queue := [], kick := false, quiet := false } }) →
    (s.link.state ≠ .slave ∨ s.link.reference = none →
      exec (.softReset now) s =
        .next ((stilled { u with sound := rested u.sound, link := linked }).answer .ok [])) ∧
    ∀ r : Instant, s.link.state = .slave → s.link.reference = some r →
      (now ≤ r + 15625 →
        exec (.softReset now) s =
          .next ((stilled
            { u with sound := rested u.sound, link := { linked with ownNext := r + 15625 } }).answer .ok [])) ∧
      (r + 15625 < now → ∃ (t : State) (draws : Nat),
        (exec .frameInstant { u with link := { linked with ownNext := now } } = .next t ∧
          exec (.softReset now) s =
            .next ((stilled { t with sound := rested t.sound, draws := draws }).answer .ok [])) ∨
        (exec .frameInstant { u with sound := rested u.sound, link := { linked with ownNext := now } } = .next t ∧
          exec (.softReset now) s = .next ((stilled { t with draws := draws }).answer .ok [])))

/-! ### The record store -/

/-- While the catalog is in good order, free, committed and shadow blocks number 1024 together and a block is free
exactly when no entry holds it; and the n lowest-numbered free blocks are n free blocks in ascending order, below
every other free block. -/
def Obligations.FreeBlocksAndTheirSelection : Prop :=
  ∀ st : Store, st.Wf →
    st.freeBlocks.length + (st.catalog.map fun e => e.blocks.length).sum +
      (st.catalog.map fun e => e.shadowBlocks.length).sum = 1024 ∧
    (∀ b, b ∈ st.freeBlocks ↔ ∀ e ∈ st.catalog, b ∉ e.blocks ∧ b ∉ e.shadowBlocks) ∧
    ∀ n, n ≤ st.freeBlocks.length →
      (st.lowestFree n).length = n ∧ (st.lowestFree n).Pairwise (· < ·) ∧
      (∀ b ∈ st.lowestFree n, b ∈ st.freeBlocks) ∧
      ∀ b ∈ st.freeBlocks, b ∉ st.lowestFree n → ∀ a ∈ st.lowestFree n, a < b

/-- CREATE answers the first check of its table that fails and changes no state of the store. With none failing it
holds itself in hand with the lowest free blocks, their every byte the fill byte and no other byte changed, the check
of key, length and filled contents, and the named counters with their initial values clamped. The entry step of
CREATE: the entry joins the catalog LIVE at generation 0, its damage mark clear and audited mark set, and nothing else
of the store changes; the answer carries key, blocks taken, generation 0 and check. An entry joins an ascending
catalog at its place by key. That a stage's work is done at the accepting step and held in hand is the model's choice
(log 7). -/
def Obligations.CreateThenEntryStep : Prop :=
  (∀ (key length : Half) (fill count : Byte) (c0 c1 c2 c3 : CounterSpec) (s u : State) (specs : List CounterSpec)
     (blocks : List Block),
     s.Accepts → s.MemoryWf → u = s.serving (.create key length fill count c0 c1 c2 c3) →
     specs = [c0, c1, c2, c3].take count.toNat → blocks = s.store.lowestFree ((length.toNat + 63) / 64) →
     if key = 0 ∨ key = 0xFFFF ∨ length = 0 ∨ 1024 < length.toNat ∨ 4 < count.toNat ∨
         ∃ c ∈ specs, c.ceiling.toInt < c.floor.toInt then
       exec (.create key length fill count c0 c1 c2 c3) s = .next (u.answer .range [])
     else if ∃ e ∈ s.store.catalog, e.key = key.toNat then
       exec (.create key length fill count c0 c1 c2 c3) s = .next (u.answer .existsAlready [])
     else if 96 ≤ s.store.catalog.length then
       exec (.create key length fill count c0 c1 c2 c3) s = .next (u.answer .catalogFull [])
     else if s.store.freeBlocks.length < (length.toNat + 63) / 64 then
       exec (.create key length fill count c0 c1 c2 c3) s = .next (u.answer .noSpace [])
     else
       ∃ memory : Memory,
         exec (.create key length fill count c0 c1 c2 c3) s =
           .next ({ u with store := { u.store with memory := memory } }.holdWork
             (.create key.toNat length.toNat blocks
               (recordCheck key.toNat length.toNat (List.replicate length.toNat fill))
               (specs.map fun (c : CounterSpec) =>
                 { value := min c.ceiling.toInt (max c.floor.toInt c.initial.toInt), floor := c.floor.toInt,
                   ceiling := c.ceiling.toInt }))) ∧
         (∀ b ∈ blocks, ∀ i < 64, Memory.read memory (64 * b.val + i) = fill) ∧
         ∀ a, OutsideBlocks blocks a → Memory.read memory a = Memory.read s.store.memory a) ∧
  ((∀ (s : State) (key length : Nat) (blocks : List Block) (check : Half) (counters : List Counter),
     s.window.work = some (.create key length blocks check counters) →
     exec .entryStep s =
       .next ({ s with
         store :=
           { s.store with
             catalog :=
               insertEntry
                 { key := key, length := length, blocks := blocks, generation := 0, check := check, damage := false,
                   audited := true, counters := counters, shadow := none } s.store.catalog } }.answer .ok
         (nat2 key ++ [nat1 blocks.length, 0, 0] ++ halfBytes check))) ∧
   ∀ (e : Entry) (catalog : List Entry), catalog.Pairwise (fun a b => a.key < b.key) → (∀ x ∈ catalog, x.key ≠ e.key) →
     (insertEntry e catalog).Perm (e :: catalog) ∧ (insertEntry e catalog).Pairwise (fun a b => a.key < b.key))

/-- The check of R6 on the manual's worked inputs, and its step: eight doublings of the remainder into which the byte
has been combined, the generator combined whenever the bit that left was one. The completion of a verification: the
audited mark is set, and the damage mark if the freshly computed check differs from the stored one, never cleared;
then a READ-PIECE delivers the bytes as held with the damage mark as it now stands, and an OPEN-CHANGE goes to its
fill stage. What the request in hand holds is the model's choice (log 7). -/
def Obligations.VerificationByTheRecordCheck : Prop :=
  (recordCheck 1 1 [0] = 0x5489 ∧
   (∀ (key length : Nat), recordCheck key length [] =
     [BitVec.ofNat 8 (key / 256), BitVec.ofNat 8 key, BitVec.ofNat 8 (length / 256), BitVec.ofNat 8 length].foldl
       crcByte 0xFFFF) ∧
   (∀ (key length : Nat) (payload : List Byte) (b : Byte),
     recordCheck key length (payload ++ [b]) = crcByte (recordCheck key length payload) b) ∧
   ∀ (r : Half) (b : Byte), crcByte r b =
     (fun x : Half => if x.getLsbD 15 then x * 2 ^^^ 0x1021 else x * 2)^[8]
       (r ^^^ BitVec.ofNat 16 (256 * b.toNat))) ∧
  (∀ (s : State) (key : Nat) (e : Entry) (store : Store), s.StoreWf → s.MemoryWf → s.store.find key = some e →
     store = s.store.withEntry key (fun x =>
       { x with
         damage :=
           e.damage ||
             (recordCheck e.key e.length (readPayload s.store.memory e.blocks 0 e.length) != e.check)
         audited := true }) →
     (∀ offset count, s.window.work = some (.readVerify key offset count) →
       exec .verification s =
         .next ({ s with
           store := store
           window := s.window.fillBuffer (readPayload s.store.memory e.blocks offset count) }.answer .ok
           (nat2 key ++ nat2 offset ++ [nat1 count, 0] ++ nat2 e.generation ++
             [flag1 (e.damage ||
               (recordCheck e.key e.length (readPayload s.store.memory e.blocks 0 e.length) != e.check))]))) ∧
     ∀ newLength copyIn, s.window.work = some (.openVerify key newLength copyIn) →
       ∃ memory : Memory,
         exec .verification s =
           .next ({ s with store := { store with memory := memory } }.holdWork
             (.openFill key newLength copyIn (s.store.lowestFree ((newLength + 63) / 64)))) ∧
         ShadowFilled s.store.memory memory e (s.store.lowestFree ((newLength + 63) / 64)) newLength copyIn)

/-- INFO, LIST and STORE-SPACE answer the catalog entry, up to 7 catalog lines, and the three counts, and change
nothing but the answer and, for LIST, the transfer buffer. That the further-entries flag is clear where no line is
placed is the model's choice (log 33). -/
def Obligations.CatalogReaders : Prop :=
  (∀ (key : Half) (s : State), s.Accepts →
    (key = 0 ∨ key = 0xFFFF → Answers (.info key) s .range []) ∧
    (key ≠ 0 → key ≠ 0xFFFF → s.store.find key.toNat = none → Answers (.info key) s .noRecord []) ∧
    ∀ e, key ≠ 0 → key ≠ 0xFFFF → s.store.find key.toNat = some e →
      Answers (.info key) s .ok
        ([flag1 e.shadow.isSome] ++ nat2 e.length ++ nat2 e.generation ++
          [flag1 e.damage, flag1 e.audited, nat1 e.counters.length, nat1 e.blocks.length] ++
          nat2 (e.shadow.elim 0 Shadow.newLength) ++ [flag1 (e.shadow.elim false Shadow.copyIn)])) ∧
  (∀ (after : Half) (s : State) (beyond lines : List Entry), s.Accepts →
    beyond = s.store.catalog.filter (fun e => decide (after.toNat < e.key)) → lines = beyond.take 7 →
    ServedAs (.list after) s fun u =>
      { u with
        window :=
          u.window.fillBuffer (lines.flatMap fun (e : Entry) =>
            nat2 e.key ++ nat2 e.length ++ nat2 e.generation ++
              [BitVec.ofNat 8 (128 * e.shadow.isSome.toNat + 64 * e.damage.toNat + 32 * e.audited.toNat) |||
                nat1 e.counters.length, 0]) }.answer .ok
        ([nat1 lines.length] ++ nat2 (lines.getLast?.elim 0 Entry.key) ++ [flag1 (decide (7 < beyond.length))])) ∧
  ∀ s : State, s.Accepts →
    Answers .storeSpace s .ok
      (nat2 s.store.freeBlocks.length ++
        [nat1 s.store.catalog.length, nat1 (s.store.catalog.countP fun e => e.shadow.isSome)])

/-- RETIRE: the refusals; a LIVE record leaves the catalog in one step, in which every TEND action that names its key
turns into NOTIFY with its target-lost mark set. The answer waits while a tend action naming the key is in flight, and
carries the number of blocks freed. What the request in hand holds is the model's choice (log 7). -/
def Obligations.RetireThenAnswer : Prop :=
  (∀ (key : Half) (s : State), s.Accepts →
    if key = 0 ∨ key = 0xFFFF then Answers (.retire key) s .range []
    else
      match s.store.find key.toNat with
      | none => Answers (.retire key) s .noRecord []
      | some e =>
        if e.shadow ≠ none then Answers (.retire key) s .isOpen []
        else
          ServedAs (.retire key) s fun u =>
            { u with
              store := { u.store with catalog := u.store.catalog.filter fun x => x.key != key.toNat }
              engine :=
                { u.engine with
                  slots := u.engine.slots.map fun (slot : Option Event) => slot.map fun (v : Event) =>
                    match v.action with
                    | .notify => v
                    | .tend k _ _ =>
                      if k = key.toNat then { v with action := .notify, targetLost := true } else v } }.holdWork
              (.retire key.toNat e.blocks.length)) ∧
  ∀ (s : State) (key freed : Nat), s.window.work = some (.retire key freed) →
    exec .retireAnswer s =
      .next (if ∃ t ∈ s.engine.tends, t.key = key then s else s.answer .ok [nat1 freed])

/-- OPEN-CHANGE: the first check of its table that fails is answered, and nothing of the store changes. With none
failing the record is verified first if the audit runs and its audited mark is clear; else the lowest free blocks are
filled. The entry step gives the record its shadow. What the request in hand holds is the model's choice (log 7). -/
def Obligations.OpenChangeStages : Prop :=
  (∀ (key newLength : Half) (copyIn : Byte) (s u : State) (blocks : List Block), s.Accepts → s.MemoryWf →
    u = s.serving (.openChange key newLength copyIn) → blocks = s.store.lowestFree ((newLength.toNat + 63) / 64) →
    if key = 0 ∨ key = 0xFFFF ∨ newLength = 0 ∨ 1024 < newLength.toNat then
      exec (.openChange key newLength copyIn) s = .next (u.answer .range [])
    else
      match s.store.find key.toNat with
      | none => exec (.openChange key newLength copyIn) s = .next (u.answer .noRecord [])
      | some e =>
        if e.shadow ≠ none then exec (.openChange key newLength copyIn) s = .next (u.answer .isOpen [])
        else if 4 ≤ s.store.catalog.countP fun e => e.shadow.isSome then
          exec (.openChange key newLength copyIn) s = .next (u.answer .openLimit [])
        else if s.store.freeBlocks.length < (newLength.toNat + 63) / 64 then
          exec (.openChange key newLength copyIn) s = .next (u.answer .noSpace [])
        else if s.store.auditFlag = true ∧ e.audited = false then
          exec (.openChange key newLength copyIn) s =
            .next (u.holdWork (.openVerify key.toNat newLength.toNat (copyIn != 0)))
        else
          ∃ memory : Memory,
            exec (.openChange key newLength copyIn) s =
              .next ({ u with store := { u.store with memory := memory } }.holdWork
                (.openFill key.toNat newLength.toNat (copyIn != 0) blocks)) ∧
            ShadowFilled s.store.memory memory e blocks newLength.toNat (copyIn != 0)) ∧
  ∀ (s : State) (key newLength : Nat) (copyIn : Bool) (blocks : List Block) (e : Entry),
    s.window.work = some (.openFill key newLength copyIn blocks) → s.store.find key = some e →
    exec .openChangeEntry s =
      .next ({ s with
        store :=
          s.store.withEntry key fun x =>
            { x with shadow := some { newLength := newLength, blocks := blocks, copyIn := copyIn } } }.answer .ok
        (nat2 key ++ nat2 newLength ++ [nat1 blocks.length, flag1 copyIn] ++ nat2 e.generation ++ [flag1 e.damage]))

/-- WRITE-PIECE: the refusals; otherwise transfer buffer byte j goes to the address of shadow byte offset + j, for
each j below the count, and no other byte of keep memory, and nothing else of the store, changes. -/
def Obligations.WritePieceWrites : Prop :=
  ∀ (key offset : Half) (count : Byte) (s u : State), s.Accepts → s.MemoryWf → s.StoreWf →
    u = s.serving (.writePiece key offset count) →
    if key = 0 ∨ key = 0xFFFF ∨ count = 0 ∨ 64 < count.toNat then
      exec (.writePiece key offset count) s = .next (u.answer .range [])
    else
      match s.store.find key.toNat with
      | none => exec (.writePiece key offset count) s = .next (u.answer .noRecord [])
      | some e =>
        match e.shadow with
        | none => exec (.writePiece key offset count) s = .next (u.answer .notOpen [])
        | some sh =>
          if sh.newLength < offset.toNat + count.toNat then
            exec (.writePiece key offset count) s = .next (u.answer .range [])
          else
            ∃ memory : Memory,
              exec (.writePiece key offset count) s =
                .next ({ u with store := { u.store with memory := memory } }.answer .ok
                  (halfBytes key ++ halfBytes offset ++ [count])) ∧
              (∀ j : Fin 64, j.val < count.toNat → ∃ a,
                payloadAddress sh.blocks (offset.toNat + j.val) = some a ∧
                Memory.read memory a = s.window.buffer.get j) ∧
              ∀ a, (∀ j < count.toNat, payloadAddress sh.blocks (offset.toNat + j) ≠ some a) →
                Memory.read memory a = Memory.read s.store.memory a

/-- READ-PIECE: the refusals; a read of the shadow, and a read of committed contents that needs no verification,
delivers the bytes at once and changes nothing of the store; a read of committed contents at offset 0, or of a record
the audit has not reached, holds itself in hand to verify. What the request in hand holds is the model's choice (log
7). -/
def Obligations.ReadPieceDeliversOrVerifies : Prop :=
  ∀ (key offset : Half) (count source : Byte) (s : State), s.Accepts →
    if key = 0 ∨ key = 0xFFFF ∨ count = 0 ∨ 64 < count.toNat ∨ 1 < source.toNat then
      Answers (.readPiece key offset count source) s .range []
    else
      match s.store.find key.toNat with
      | none => Answers (.readPiece key offset count source) s .noRecord []
      | some e =>
        if source = 1 ∧ e.shadow = none then Answers (.readPiece key offset count source) s .notOpen []
        else if (if source = 0 then e.length else e.shadow.elim 0 Shadow.newLength) < offset.toNat + count.toNat then
          Answers (.readPiece key offset count source) s .range []
        else if source = 0 ∧ (offset = 0 ∨ (s.store.auditFlag = true ∧ e.audited = false)) then
          ServedAs (.readPiece key offset count source) s fun u =>
            u.holdWork (.readVerify key.toNat offset.toNat count.toNat)
        else
          ServedAs (.readPiece key offset count source) s fun u =>
            { u with
              window :=
                u.window.fillBuffer
                  (readPayload u.store.memory (if source = 0 then e.blocks else e.shadowBlocks) offset.toNat
                    count.toNat) }.answer .ok
              (halfBytes key ++ halfBytes offset ++ [count, source] ++ nat2 e.generation ++ [flag1 e.damage])

/-- CLOSE-CHANGE and CLOSE-ALL: the refusals and the check stage, which changes nothing of the store; ABANDON-CHANGE:
the refusals, and the shadow removed with nothing else changed. The swap stage: for each record it commits, in one
step, the shadow becomes the committed contents, the generation rises by 1 wrapping to 0, the check becomes the
computed one, the damage mark clears, the audited mark sets, and the shadow goes; every other record, and keep memory,
stay as they were. What the request in hand holds is the model's choice (log 7). -/
def Obligations.CommitAndAbandonRequests : Prop :=
  ((∀ (key : Half) (s : State), s.Accepts →
     if key = 0 ∨ key = 0xFFFF then
       Answers (.closeChange key) s .range [] ∧ Answers (.abandonChange key) s .range []
     else
       match s.store.find key.toNat with
       | none => Answers (.closeChange key) s .noRecord [] ∧ Answers (.abandonChange key) s .noRecord []
       | some e =>
         match e.shadow with
         | none => Answers (.closeChange key) s .notOpen [] ∧ Answers (.abandonChange key) s .notOpen []
         | some sh =>
           (ServedAs (.closeChange key) s fun u =>
             u.holdWork (.close key.toNat
               (recordCheck key.toNat sh.newLength (readPayload u.store.memory sh.blocks 0 sh.newLength)))) ∧
           ServedAs (.abandonChange key) s fun u =>
             { u with store := u.store.withEntry key.toNat fun x => { x with shadow := none } }.answer .ok
               (halfBytes key ++ [nat1 sh.blocks.length])) ∧
   ∀ s : State, s.Accepts →
     ((∀ e ∈ s.store.catalog, e.shadow = none) → Answers .closeAll s .ok [0]) ∧
     ((∃ e ∈ s.store.catalog, e.shadow ≠ none) →
       ServedAs .closeAll s fun u =>
         u.holdWork (.closeAll (u.store.catalog.filterMap fun (e : Entry) =>
           e.shadow.map fun (sh : Shadow) =>
             (e.key, recordCheck e.key sh.newLength (readPayload u.store.memory sh.blocks 0 sh.newLength)))))) ∧
  (∀ s : State, s.StoreWf →
     (∀ (key : Nat) (check : Half) (e : Entry) (sh : Shadow), s.window.work = some (.close key check) →
       s.store.find key = some e → e.shadow = some sh →
       exec .swapStage s =
         .next ({ s with
           store := s.store.withEntry key fun x =>
             { x with
               blocks := sh.blocks, length := sh.newLength, generation := (e.generation + 1) % 65536, check := check,
               damage := false, audited := true, shadow := none } }.answer .ok
           (nat2 key ++ nat2 ((e.generation + 1) % 65536) ++ nat2 sh.newLength ++ halfBytes check ++
             [nat1 sh.blocks.length, nat1 e.blocks.length]))) ∧
     ∀ checks : List (Nat × Half), s.window.work = some (.closeAll checks) →
       exec .swapStage s =
         .next ({ s with
           store :=
             { s.store with
               catalog := s.store.catalog.map fun (e : Entry) =>
                 match e.shadow with
                 | none => e
                 | some sh =>
                   { e with
                     blocks := sh.blocks, length := sh.newLength, generation := (e.generation + 1) % 65536,
                     check := (checks.lookup e.key).getD e.check, damage := false, audited := true,
                     shadow := none } } }.answer .ok
           ([nat1 checks.length] ++
             (s.store.catalog.filter fun (e : Entry) => e.shadow.isSome).flatMap fun (e : Entry) =>
               nat2 e.key ++ nat2 ((e.generation + 1) % 65536))))

/-- One step of the audit while it is in progress, the main domain is up and no request is in the store's hand: the
record with the smallest key above the position is passed over if its audited mark is set and verified otherwise, and
the position moves to its key; with no such record the audit completes, raising KEEP "damage found" if a damage mark
stands. That the audit waits for the request in hand is the model's choice (log 22). -/
def Obligations.AuditStepsThroughTheCatalog : Prop :=
  ∀ s : State, s.StoreWf → s.store.auditFlag = true → s.power.main ≠ .off →
    (s.window.work = none ∨ s.window.work = some .quiesce) →
    (∀ e ∈ s.store.catalog, s.store.auditPosition < e.key →
      (∀ x ∈ s.store.catalog, s.store.auditPosition < x.key → e.key ≤ x.key) →
      exec .auditStep s =
        .next { s with
          store :=
            if e.audited = true then { s.store with auditPosition := e.key }
            else
              { s.store.withEntry e.key (fun x =>
                { x with
                  damage :=
                    e.damage ||
                      (recordCheck e.key e.length (readPayload s.store.memory e.blocks 0 e.length) != e.check)
                  audited := true }) with auditPosition := e.key } }) ∧
    ((∀ x ∈ s.store.catalog, x.key ≤ s.store.auditPosition) →
      exec .auditStep s =
        .next { s with
          store := { s.store with auditFlag := false }
          notices :=
            if ∃ e ∈ s.store.catalog, e.damage = true then
              { s.notices with keep := { s.notices.keep with pending := true, damageFound := true } }
            else s.notices })

/-- A record's committed contents, length, blocks, generation and check change only at a swap stage: after any other
command the record is there with the same ones, but for the RETIRE that takes it out, a cell reset, and the bytes a
fall of the keep supply itself changes. What a fall changes is the model's operand (log 15). -/
def Obligations.CommittedContentsChangeOnlyAtSwap : Prop :=
  ∀ (c : Instr) (s t : State), s.StoreWf → s.MemoryWf → exec c s = .next t → c ≠ .swapStage → c ≠ .cellReset →
    (∀ faults, c ≠ .retentionDoubtful faults) →
    ∀ e ∈ s.store.catalog, (∀ key, c = .retire key → e.key ≠ key.toNat) →
      ∃ e' ∈ t.store.catalog, e'.key = e.key ∧ e'.length = e.length ∧ e'.blocks = e.blocks ∧
        e'.generation = e.generation ∧ e'.check = e.check ∧
        readPayload t.store.memory e'.blocks 0 e'.length = readPayload s.store.memory e.blocks 0 e.length

/-- Every step keeps the record store in good order: the catalog ascending with distinct keys, at most 96 records and
4 open changes, every field in its range, every block in one place only, and the request in hand backed by the checks
it passed. Every step keeps the audited mark of every OPEN record set while the audit runs. -/
def Obligations.RecordStoreKept : Prop :=
  (∀ s t : State, s.StoreWf → step s = .next t → t.StoreWf) ∧
  (∀ s t : State, s.StoreWf → s.AuditWf → step s = .next t → t.AuditWf)

/-- Every step keeps keep memory in canonical form: addresses rising, and no entry equal to what an unwritten byte
reads as, so that equal contents are equal data. The form is the model's own representation (log 6, DESIGN CHOICE); no
rule of the manual speaks of it. -/
def Obligations.MemoryWfKept : Prop :=
  ∀ s t : State, s.MemoryWf → step s = .next t → t.MemoryWf

/-! ### Tended counters -/

/-- The checks every counter request applies, in order: RANGE for a key of 0 or 65535, and for SET-BOUNDS with its
floor above its ceiling; NO-RECORD; NO-COUNTER with the record's counter count. A refused request changes no counter.
The five counter requests on a counter that exists: the new value computed at full width and clamped into the bounds,
the prior and resulting values, the bounds and the limit flag answered; nothing else of the store changes. -/
def Obligations.CounterRequests : Prop :=
  (∀ (c : Instr) (key : Half) (index : Byte) (v w : Half) (s : State), s.Accepts →
     c = .readCounter key index ∨ c = .adjustCounter key index v ∨ c = .setCounter key index v ∨
       c = .swapCounter key index v w ∨ c = .setBounds key index v w →
     if key = 0 ∨ key = 0xFFFF ∨ (c = .setBounds key index v w ∧ w.toInt < v.toInt) then Answers c s .range []
     else
       match s.store.find key.toNat with
       | none => Answers c s .noRecord []
       | some e => e.counters.length ≤ index.toNat → Answers c s .noCounter [nat1 e.counters.length]) ∧
  (∀ (key : Half) (index : Byte) (v w : Half) (s : State) (e : Entry) (c : Counter), s.Accepts → s.StoreWf →
     key ≠ 0 → key ≠ 0xFFFF → s.store.find key.toNat = some e → e.counters[index.toNat]? = some c →
     Answers (.readCounter key index) s .ok
       (halfBytes key ++ [index, nat1 e.counters.length] ++ int2 c.value ++ int2 c.value ++ int2 c.floor ++
         int2 c.ceiling ++ [0]) ∧
     (∀ new : Int, new = min c.ceiling (max c.floor (c.value + v.toInt)) →
       ServedAs (.adjustCounter key index v) s fun u =>
         { u with store := u.store.withCounter key.toNat index.toNat { c with value := new } }.answer .ok
           (halfBytes key ++ [index, nat1 e.counters.length] ++ int2 c.value ++ int2 new ++ int2 c.floor ++
             int2 c.ceiling ++ [flag1 (decide (new ≠ c.value + v.toInt))])) ∧
     (∀ new : Int, new = min c.ceiling (max c.floor v.toInt) →
       ServedAs (.setCounter key index v) s fun u =>
         { u with store := u.store.withCounter key.toNat index.toNat { c with value := new } }.answer .ok
           (halfBytes key ++ [index, nat1 e.counters.length] ++ int2 c.value ++ int2 new ++ int2 c.floor ++
             int2 c.ceiling ++ [flag1 (decide (new ≠ v.toInt))])) ∧
     (∀ new : Int, new = min c.ceiling (max c.floor w.toInt) → c.value = v.toInt →
       ServedAs (.swapCounter key index v w) s fun u =>
         { u with store := u.store.withCounter key.toNat index.toNat { c with value := new } }.answer .ok
           (halfBytes key ++ [index, nat1 e.counters.length] ++ int2 c.value ++ int2 new ++ int2 c.floor ++
             int2 c.ceiling ++ [flag1 (decide (new ≠ w.toInt))])) ∧
     (c.value ≠ v.toInt →
       Answers (.swapCounter key index v w) s .mismatch
         (halfBytes key ++ [index, nat1 e.counters.length] ++ int2 c.value ++ int2 c.value ++ int2 c.floor ++
           int2 c.ceiling ++ [0])) ∧
     ∀ new : Int, new = min w.toInt (max v.toInt c.value) → v.toInt ≤ w.toInt →
       ServedAs (.setBounds key index v w) s fun u =>
         { u with
           store :=
             u.store.withCounter key.toNat index.toNat
               { value := new, floor := v.toInt, ceiling := w.toInt } }.answer .ok
           (halfBytes key ++ [index, nat1 e.counters.length] ++ int2 c.value ++ int2 new ++ int2 v.toInt ++
             int2 w.toInt ++ [flag1 (decide (new ≠ c.value))]))

/-- The store takes the oldest tend action in flight: the amount is added to the counter it names and the sum clamped
into its bounds, and the answer is "applied" with the resulting value; where the key or the index names no counter, no
counter changes and the answer is "absent". Nothing else changes. The engine takes the oldest tend answer: an event
that still holds the tag and the action becomes NOTIFY with its target-lost mark set when the answer is "absent";
nothing else of any event changes. -/
def Obligations.TendActionsAndAnswers : Prop :=
  (∀ (s : State) (a : TendAction) (rest : List TendAction), s.power.keepRuns = true → s.engine.tends = a :: rest →
     (∀ e c new, s.store.find a.key = some e → e.counters[a.index]? = some c →
       new = min c.ceiling (max c.floor (c.value + a.amount)) →
       exec .tendAction s =
         .next { s with
           store := s.store.withCounter a.key a.index { c with value := new }
           engine :=
             { s.engine with
               tends := rest
               answers :=
                 s.engine.answers ++ [{ slot := a.slot, tag := a.tag, key := a.key, result := .applied new }] } }) ∧
     ((∀ e, s.store.find a.key = some e → e.counters.length ≤ a.index) →
       exec .tendAction s =
         .next { s with
           engine :=
             { s.engine with
               tends := rest
               answers := s.engine.answers ++ [{ slot := a.slot, tag := a.tag, key := a.key, result := .absent }] } })) ∧
  (∀ (s : State) (a : TendAnswer) (rest : List TendAnswer), s.power.keepRuns = true → s.engine.answers = a :: rest →
     ∃ slots, exec .tendAnswer s = .next { s with engine := { s.engine with slots := slots, answers := rest } } ∧
       ∀ i, slots.get i =
         (s.engine.slots.get i).map fun e =>
           match e.action with
           | .notify => e
           | .tend key _ _ =>
             if a.result = .absent ∧ i = a.slot ∧ e.tag = a.tag ∧ key = a.key then
               { e with action := .notify, targetLost := true }
             else e)

/-- Every step keeps every counter's value within its floor and ceiling, its floor not above its ceiling, and both
within 16 signed bits. -/
def Obligations.CountersWfKept : Prop :=
  ∀ s t : State, s.CountersWf → step s = .next t → t.CountersWf

/-- A record's counters change only through the four console requests that change one and through tend actions: after
any other command but its RETIRE, a cell reset and a fall of the keep supply that the catalog did not hold (R180, log
15) the record has the same counters. Their number never changes. -/
def Obligations.CountersChangeOnlyByTheirRequests : Prop :=
  ∀ (c : Instr) (s t : State), s.StoreWf → exec c s = .next t → c ≠ .cellReset →
    ∀ e ∈ s.store.catalog, (∀ key, c = .retire key → e.key ≠ key.toNat) →
      ∃ e' ∈ t.store.catalog, e'.key = e.key ∧ e'.counters.length = e.counters.length ∧
        (c ≠ .tendAction → (∀ key index v, c ≠ .adjustCounter key index v) →
          (∀ key index v, c ≠ .setCounter key index v) → (∀ key index v w, c ≠ .swapCounter key index v w) →
          (∀ key index v w, c ≠ .setBounds key index v w) →
          (∀ faults f, c = .retentionDoubtful faults → RetentionFault.entry f ∉ faults) → e'.counters = e.counters)

/-! ### The calendar -/

/-- SET-WALL's conversion of every valid wall date and time: days before the year with one leap day for each fourth
year from 2000, days before the month, days before the day, and the time of day. The conversion of a wall second takes
it back to the same date and time, and it is never above the top of the range; every wall second of the range is that
of a valid date. -/
def Obligations.WallDatesConvertBothWays : Prop :=
  (∀ d : WallDate, 2000 ≤ d.year → d.year ≤ 2099 → 1 ≤ d.month → d.month ≤ 12 → 1 ≤ d.day →
    d.day ≤ daysIn (decide (d.year % 4 = 0)) d.month → d.hour ≤ 23 → d.minute ≤ 59 → d.second ≤ 59 →
    wallOf d =
      (365 * (d.year - 2000) + (d.year - 2000 + 3) / 4 +
        ((List.range (d.month - 1)).map fun m => daysIn (decide (d.year % 4 = 0)) (m + 1)).sum + (d.day - 1)) * 86400 +
        d.hour * 3600 + d.minute * 60 + d.second ∧
    wallOf d ≤ 3155759999 ∧ dateOf (wallOf d) = d) ∧
  ∀ wall : Nat, wall ≤ 3155759999 → badDateField (dateOf wall) = none ∧ wallOf (dateOf wall) = wall

/-- While the calendar is SET: the wall second is the smaller of T + W and the top; game day G lies from 0 to 36525
and runs from wall second 86400 (G - 1) + 60 D to 86400 G + 60 D - 1; the seconds into it are counted from its turn;
its weekday is (G + 4) mod 7, that of the wall day on which it began. -/
def Obligations.GameDayAndWeekday : Prop :=
  ∀ c : Calendar, c.Wf → c.state = .set →
    (c.wallSecond : Int) = min (c.trueSecond + c.wallOffset) 3155759999 ∧
    0 ≤ c.gameDay ∧ c.gameDay ≤ 36525 ∧
    86400 * (c.gameDay - 1) + 60 * c.dayTurn ≤ c.wallSecond ∧
    (c.wallSecond : Int) ≤ 86400 * c.gameDay + 60 * c.dayTurn - 1 ∧
    c.intoDay = c.wallSecond - (86400 * (c.gameDay - 1) + 60 * c.dayTurn) ∧
    weekday c.gameDay = (c.gameDay + 4) % 7 ∧ weekday c.gameDay = ((c.gameDay - 1) + 5) % 7

/-- READ-CLOCK answers the calendar's fields, those from the end mark on 0 while it is UNSET, and changes nothing.
SET-WALL is refused with the position of the first invalid field; otherwise W becomes the target less T, the state SET
and the end mark clear, and the wall evaluation comes before the answer. SET-DAY-TURN is refused above 1439; otherwise
D takes the value, and the wall evaluation comes before the answer. -/
def Obligations.CalendarRequests : Prop :=
  (∀ (s : State) (d : WallDate), s.Accepts → d = dateOf s.calendar.wallSecond →
    Answers .readClock s .ok
      (nat4 s.calendar.trueSecond ++
        (if s.calendar.state = .unset then [0] ++ nat2 s.calendar.dayTurn ++ List.replicate 21 0
         else
          [1] ++ nat2 s.calendar.dayTurn ++ [flag1 s.calendar.endMark] ++ nat4 s.calendar.wallSecond ++ nat2 d.year ++
            [nat1 d.month, nat1 d.day, nat1 d.hour, nat1 d.minute, nat1 d.second,
              BitVec.ofInt 8 ((s.calendar.gameDay + 4) % 7)] ++
            int4 s.calendar.gameDay ++ int4 s.calendar.intoDay))) ∧
  (∀ (year : Half) (month day hour minute second : Byte) (s : State) (target : Nat), s.Accepts →
    target = wallOf ⟨year.toNat, month.toNat, day.toNat, hour.toNat, minute.toNat, second.toNat⟩ →
    if year.toNat < 2000 ∨ 2099 < year.toNat then Answers (.setWall year month day hour minute second) s .range [1]
    else if month.toNat < 1 ∨ 12 < month.toNat then Answers (.setWall year month day hour minute second) s .range [2]
    else if day.toNat < 1 ∨ daysIn (decide (year.toNat % 4 = 0)) month.toNat < day.toNat then
      Answers (.setWall year month day hour minute second) s .range [3]
    else if 23 < hour.toNat then Answers (.setWall year month day hour minute second) s .range [4]
    else if 59 < minute.toNat then Answers (.setWall year month day hour minute second) s .range [5]
    else if 59 < second.toNat then Answers (.setWall year month day hour minute second) s .range [6]
    else
      ServedAs (.setWall year month day hour minute second) s fun u =>
        { u with
          calendar :=
            { u.calendar with
              wallOffset := (target : Int) - u.calendar.trueSecond, state := .set,
              endMark := false } }.evaluate.answer .ok
          (nat4 u.calendar.trueSecond ++
            (if u.calendar.state = CalendarState.unset then [0] ++ int4 0 else [1] ++ int4 u.calendar.gameDay) ++
            nat4 target ++
            int4 (((target : Int) + 86400 - 60 * u.calendar.dayTurn) / 86400))) ∧
  ∀ (turn : Half) (s : State), s.Accepts →
    if 1439 < turn.toNat then Answers (.setDayTurn turn) s .range []
    else
      ServedAs (.setDayTurn turn) s fun u =>
        { u with calendar := { u.calendar with dayTurn := turn.toNat } }.evaluate.answer .ok
          (nat2 u.calendar.dayTurn ++ nat2 turn.toNat ++
            if u.calendar.state = CalendarState.unset then int4 0 ++ int4 0
            else
              int4 u.calendar.gameDay ++
                int4 (((u.calendar.wallSecond : Int) + 86400 - 60 * turn.toNat) / 86400))

/-- A second event: T rises by 1 or holds at its maximum; the minute phase rises and on reaching 60 returns to 0,
which hands a minute event on; the end mark is set when T + W is above the top while SET; with the main domain up the
engine evaluates. A minute event handed on: with the main domain OFF the engine evaluates and the supply watch takes a
reading. That a minute event is a row of its own that follows the second event which makes it, and that a wake event
at it takes its reading, are the model's choices (log 10, log 17). -/
def Obligations.SecondAndMinuteEvents : Prop :=
  (∀ (s t : State), s.power.keepRuns = true →
    t = { s with
      calendar :=
        { s.calendar with
          trueSecond := min 4294967295 (s.calendar.trueSecond + 1)
          minutePhase := if s.calendar.minutePhase + 1 < 60 then s.calendar.minutePhase + 1 else 0
          minutesHanded :=
            if s.calendar.minutePhase + 1 < 60 then s.calendar.minutesHanded else s.calendar.minutesHanded + 1
          endMark :=
            s.calendar.endMark ||
              decide (s.calendar.state = .set ∧
                3155759999 < (min 4294967295 (s.calendar.trueSecond + 1) : Nat) + s.calendar.wallOffset) } } →
    exec .secondEvent s = .next (if s.power.main = .off then t else t.evaluate)) ∧
  ∀ (s t : State) (reading : Reading) (n : Nat), s.power.keepRuns = true → s.calendar.minutesHanded = n + 1 →
    t = { s with calendar := { s.calendar with minutesHanded := n, minuteReadingTaken := false } } →
    (s.power.main ≠ .off → exec (.minuteEvent reading) s = .next t) ∧
    (s.power.main = .off → s.calendar.minuteReadingTaken = true → exec (.minuteEvent reading) s = .next t.evaluate) ∧
    (s.power.main = .off → s.calendar.minuteReadingTaken = false →
      exec (.minuteEvent reading) s = exec (.supplyReading reading) t.evaluate)

/-- Every step keeps the calendar's items in their ranges, T + W at or above 0, and the end mark set exactly while T +
W is above the top of the wall range. T never decreases but at a cell reset; W changes only at a SET-WALL and a cell
reset, D only at a SET-DAY-TURN and a cell reset, and the calendar never goes from SET to UNSET but at a cell reset.
-/
def Obligations.CalendarKept : Prop :=
  (∀ s t : State, s.calendar.Wf → step s = .next t → t.calendar.Wf) ∧
  (∀ (c : Instr) (s t : State), exec c s = .next t → c ≠ .cellReset → s.calendar.trueSecond ≤ 4294967295 →
     s.calendar.trueSecond ≤ t.calendar.trueSecond ∧
     ((∀ y mo d h mi se, c ≠ .setWall y mo d h mi se) →
       t.calendar.wallOffset = s.calendar.wallOffset ∧ t.calendar.state = s.calendar.state) ∧
     ((∀ turn, c ≠ .setDayTurn turn) → t.calendar.dayTurn = s.calendar.dayTurn) ∧
     (s.calendar.state = .set → t.calendar.state = .set))

/-! ### Events -/

/-- The three arming requests: their checks in order; then an ARMED event in the lowest-numbered FREE slot with N = T
+ first offset, or a = L = G + f - k, or the due wall second; the evaluation of the whole table; and the answer with
the slot, the state and pending count after it, and the schedule point. -/
def Obligations.ArmingRequests : Prop :=
  (∀ (tag : Half) (first interval : BitVec 24) (a : ActionBytes) (s : State), s.Accepts →
    ArmedAs (.armElapsed tag first interval a) s tag (decide (first = 0)) false
      (.elapsed (s.calendar.trueSecond + first.toNat) interval.toNat)
      (nat5 (s.calendar.trueSecond + first.toNat)) a) ∧
  (∀ (tag : Half) (period first : Byte) (a : ActionBytes) (s : State) (anchor : Int), s.Accepts →
    anchor = s.calendar.gameDay + first.toNat - period.toNat →
    ArmedAs (.armDaily tag period first a) s tag (decide (period = 0)) true (.daily anchor period.toNat anchor)
      (int4 anchor ++ int4 (s.calendar.gameDay + first.toNat)) a) ∧
  ∀ (tag : Half) (due : BitVec 32) (a : ActionBytes) (s : State), s.Accepts →
    ArmedAs (.armWall tag due a) s tag (decide (3155759999 < due.toNat)) true (.wallOnce due.toNat) (nat4 due.toNat) a

/-- FIND-EVENT answers slot, state and kind of the event that holds the tag; EVENT-INFO places the event record, its
fields of other kinds 0, in the transfer buffer; READ-DUE places up to 6 entries of the due list from a position on.
They change nothing else. CANCEL-EVENT frees the slot and takes it off the due list. ACK-DUE lowers the pending count;
at 0 the event leaves the due list and is FREE if finished and ARMED otherwise. SET-DUE-THRESHOLD sets the threshold,
0 taken as 1 and above 48 as 48. Each answers as its rule says, with the refusals before it, and changes nothing else.
That ACK-DUE answers the target-lost mark as it stood before the step is the model's choice (log 34). -/
def Obligations.EventRequests : Prop :=
  ((∀ (tag : Half) (s : State), s.Accepts → s.engine.TableWf →
     (tag = 0 → Answers (.findEvent tag) s .range []) ∧
     (tag ≠ 0 → (∀ i, ∀ e ∈ s.engine.slots.get i, e.tag ≠ tag.toNat) → Answers (.findEvent tag) s .noEvent []) ∧
     ∀ i, ∀ e ∈ s.engine.slots.get i, e.tag = tag.toNat →
       Answers (.findEvent tag) s .ok
         [nat1 i.val, if e.state = EventState.armed then 1 else 2,
           match e.schedule with | .elapsed .. => 0 | .daily .. => 1 | .wallOnce _ => 2]) ∧
   (∀ (slot : Byte) (s : State), s.Accepts →
     (48 ≤ slot.toNat → Answers (.eventInfo slot) s .range []) ∧
     ∀ i : Slot, slot.toNat = i.val →
       (s.engine.slots.get i = none → Answers (.eventInfo slot) s .noEvent []) ∧
       ∀ e, s.engine.slots.get i = some e →
         ServedAs (.eventInfo slot) s fun u =>
           { u with
             window :=
               u.window.fillBuffer
                 ([slot] ++ nat2 e.tag ++
                   [(if e.state = EventState.armed then (1 : Byte) else 2),
                     (match e.schedule with | .elapsed .. => (0 : Byte) | .daily .. => 1 | .wallOnce _ => 2),
                     nat1 (e.finished.toNat + 2 * e.targetLost.toNat), nat1 e.pendingCount] ++
                   nat4 e.firstDue ++
                   (match e.schedule with
                   | .elapsed next interval => nat5 next ++ nat3 interval ++ List.replicate 13 0
                   | .daily anchor period last =>
                     List.replicate 8 0 ++ int4 anchor ++ [nat1 period] ++ int4 last ++ List.replicate 4 0
                   | .wallOnce due => List.replicate 17 0 ++ nat4 due) ++
                   match e.action with
                   | .notify => List.replicate 5 0
                   | .tend key index step => [1] ++ nat2 key ++ [nat1 index, BitVec.ofInt 8 step]) }.answer .ok
             ([slot, if e.state = EventState.armed then 1 else 2] ++ nat2 e.tag)) ∧
   ∀ (start : Byte) (s : State) (entries : List (Slot × Event)), s.Accepts →
     ((s.engine.dueList.drop start.toNat).take 6).map (fun i => (i, s.engine.slots.get i)) =
       entries.map (fun p => (p.1, some p.2)) →
     ServedAs (.readDue start) s fun u =>
       { u with
         window :=
           u.window.fillBuffer (entries.flatMap fun (p : Slot × Event) =>
             [nat1 p.1.val] ++ nat2 p.2.tag ++
               [nat1 p.2.pendingCount, nat1 (p.2.finished.toNat + 2 * p.2.targetLost.toNat)] ++
               nat4 p.2.firstDue) }.answer .ok
         [nat1 entries.length, nat1 s.engine.dueList.length]) ∧
  ((∀ (slot count : Byte) (s : State), s.Accepts →
     (48 ≤ slot.toNat → Answers (.cancelEvent slot) s .range [] ∧ Answers (.ackDue slot count) s .range []) ∧
     (count = 0 → Answers (.ackDue slot count) s .range []) ∧
     ∀ i : Slot, slot.toNat = i.val →
       (s.engine.slots.get i = none →
         Answers (.cancelEvent slot) s .noEvent [] ∧ (count ≠ 0 → Answers (.ackDue slot count) s .noEvent [])) ∧
       ∀ e, s.engine.slots.get i = some e →
         (ServedAs (.cancelEvent slot) s fun u =>
           { u with
             engine :=
               { u.engine with
                 slots := u.engine.slots.set i none
                 dueList := u.engine.dueList.filter fun j => j != i } }.answer .ok
             (nat2 e.tag ++ [if e.state = EventState.armed then 1 else 2, nat1 e.pendingCount])) ∧
         (count ≠ 0 → e.state = .armed → Answers (.ackDue slot count) s .notDue []) ∧
         (count ≠ 0 → e.state = .due → count.toNat < e.pendingCount →
           ServedAs (.ackDue slot count) s fun u =>
             { u with
               engine :=
                 { u.engine with
                   slots :=
                     u.engine.slots.set i
                       (some { e with pendingCount := e.pendingCount - count.toNat }) } }.answer .ok
               (nat2 e.tag ++
                 [nat1 e.pendingCount, nat1 (e.pendingCount - count.toNat), 2, flag1 e.targetLost])) ∧
         (count ≠ 0 → e.state = .due → e.pendingCount ≤ count.toNat →
           ServedAs (.ackDue slot count) s fun u =>
             { u with
               engine :=
                 { u.engine with
                   slots :=
                     u.engine.slots.set i
                       (if e.finished = true then none else some { e with pendingCount := 0, state := .armed })
                   dueList := u.engine.dueList.filter fun j => j != i } }.answer .ok
               (nat2 e.tag ++
                 [nat1 e.pendingCount, 0, if e.finished = true then 0 else 1, flag1 e.targetLost]))) ∧
   ∀ (threshold : Byte) (s : State) (n : Nat), s.Accepts →
     n = (if threshold = 0 then 1 else if 48 < threshold.toNat then 48 else threshold.toNat) →
     ServedAs (.setDueThreshold threshold) s fun u =>
       { u with engine := { u.engine with threshold := n } }.answer .ok [nat1 n, nat1 s.engine.dueList.length])

/-- The occurrences an evaluation counts: an ELAPSED event once for every interval T has passed, N moving above T by
at most an interval and keeping its phase; a DAILY event exactly once for each game day above L and at or below G that
lies a whole number of periods after the anchor, L moving to the last of them; a WALL-ONCE event once when S has
reached its due wall second; none while finished, and none of the wall kinds while UNSET. -/
def Obligations.OccurrencesCounted : Prop :=
  (∀ (now : Moment) (e : Event), e.finished = true → e.occurrences now = 0 ∧ e.evaluated now = e) ∧
  (∀ (now : Moment) (e : Event) (n i : Nat), e.finished = false → e.schedule = .elapsed n i →
    (now.second < n → e.occurrences now = 0 ∧ (e.evaluated now).schedule = .elapsed n i) ∧
    (n ≤ now.second → i = 0 → e.occurrences now = 1 ∧ (e.evaluated now).schedule = .elapsed n i ∧
      (e.evaluated now).finished = true) ∧
    (n ≤ now.second → 0 < i → ∃ n' : Nat, e.occurrences now = (now.second - n) / i + 1 ∧
      n' = n + e.occurrences now * i ∧ now.second < n' ∧ n' ≤ now.second + i ∧
      (e.evaluated now).schedule = .elapsed n' i ∧ (e.evaluated now).finished = false)) ∧
  (∀ (now : Moment) (e : Event) (a l : Int) (k : Nat), e.finished = false → e.schedule = .daily a k l →
    (now.isSet = false → e.occurrences now = 0 ∧ (e.evaluated now).schedule = .daily a k l) ∧
    (now.isSet = true → 1 ≤ k → a ≤ l → (k : Int) ∣ l - a →
      e.occurrences now = ((Finset.Ioc l now.day).filter fun d => (k : Int) ∣ d - a).card ∧
      (e.evaluated now).finished = false ∧
      ∃ l' : Int, (e.evaluated now).schedule = .daily a k l' ∧ l ≤ l' ∧ (k : Int) ∣ l' - a ∧ l' ≤ max l now.day ∧
        ∀ d, l' < d → d ≤ now.day → ¬ (k : Int) ∣ d - a)) ∧
  ∀ (now : Moment) (e : Event) (due : Nat), e.finished = false → e.schedule = .wallOnce due →
    (e.occurrences now = if now.isSet = true ∧ due ≤ now.wall then 1 else 0) ∧
    (e.evaluated now).schedule = .wallOnce due ∧
    ((e.evaluated now).finished = true ↔ now.isSet = true ∧ due ≤ now.wall)

/-- What an evaluation makes of the table: it reads T, S and G once; an event with no occurrence keeps everything but
its schedule; one with occurrences becomes DUE with its pending count raised and held at 255, taking T as its
first-due second on going from ARMED to DUE; one tend action, step times occurrences at full width, is sent for each
such TEND event in ascending slot order behind those in flight; nothing outside the engine, and neither the threshold
nor the answers in flight, changes. -/
def Obligations.EvaluationOfTheTable : Prop :=
  ∀ (s : State) (now : Moment),
    now = { second := s.calendar.trueSecond, isSet := s.calendar.state == .set, wall := s.calendar.wallSecond,
            day := s.calendar.gameDay } →
    ∃ (slots : Table (Option Event) 48) (due : List Slot) (tends : List TendAction),
      s.evaluate =
        { s with
          engine := { s.engine with slots := slots, dueList := due, tends := s.engine.tends ++ tends } } ∧
      (∀ i, slots.get i = (s.engine.slots.get i).map fun e => e.evaluated now) ∧
      (∀ e : Event, (e.evaluated now).tag = e.tag ∧ (e.evaluated now).action = e.action ∧
        (e.evaluated now).targetLost = e.targetLost ∧
        (e.occurrences now = 0 →
          e.evaluated now = { e with schedule := (e.evaluated now).schedule }) ∧
        (e.occurrences now ≠ 0 →
          (e.evaluated now).pendingCount = min 255 (e.pendingCount + e.occurrences now) ∧
          (e.evaluated now).state = .due ∧
          (e.evaluated now).firstDue = if e.state = .armed then s.calendar.trueSecond else e.firstDue)) ∧
      tends =
        (List.finRange 48).filterMap fun i =>
          (s.engine.slots.get i).bind fun e =>
            match e.action with
            | .notify => none
            | .tend key index step =>
              if e.occurrences now = 0 then none
              else some { slot := i, tag := e.tag, key := key, index := index, amount := step * e.occurrences now }

/-- Every step keeps every event's fields in their ranges, those of its schedule and the key and step of a TEND action
among them, the last-served day a whole number of periods after the anchor, the pending count from 1 to 255 when it is
DUE and 0 otherwise, a finished event DUE, and tags distinct. -/
def Obligations.EventTableWfKept : Prop :=
  ∀ s t : State, s.calendar.Wf → s.engine.TableWf → step s = .next t → t.engine.TableWf

/-- Every step keeps the due list: every DUE event exactly once and no other, in ascending order of first-due second
and, among equals, of slot; and the threshold from 1 to 48. -/
def Obligations.DueListWfKept : Prop :=
  ∀ s t : State, s.engine.DueListWf → step s = .next t → t.engine.DueListWf

/-- Every step keeps it so that no event names a key absent from the catalog or a counter its record has not. -/
def Obligations.TargetsWfKept : Prop :=
  ∀ s t : State, s.TargetsWf → step s = .next t → t.TargetsWf

/-! ### Sound -/

/-- The note entry eight bytes carry: no entry for a timbre code that names no timbre; otherwise the timbre of the
code (0 SQUARE-12, 1 SQUARE-25, 2 SQUARE-50, 3 SQUARE-75, 4 NOISE-LONG, 5 NOISE-SHORT, 6 REST, 8 + t WAVE t), the
pitch step clamped to 16383, the length, start volume, envelope direction and pace, gains, marker and cue of the
layout. QUEUE-NOTES: the refusals, with the position of the first entry whose timbre code names none; otherwise the
entries join the queue oldest first as far as 16 allow, a STARVED voice becomes PLAYING, or is held as PLAYING, when
one joins, and the answer is OK when all joined and PARTIAL otherwise. Nothing else changes. -/
def Obligations.QueueNotesAppends : Prop :=
  (([.square12, .square25, .square50, .square75, .noiseLong, .noiseShort, .rest].map Timbre.code = [0, 1, 2, 3, 4, 5, 6]) ∧
   (∀ w : Fin 8, (Timbre.wave w).code = BitVec.ofNat 8 (8 + w.val)) ∧
   (∀ b : NoteBytes, noteOf b = none ↔ b.timbre = 7 ∨ 16 ≤ b.timbre.toNat) ∧
   ∀ (b : NoteBytes) (n : Note), noteOf b = some n →
     n.timbre.code = b.timbre ∧ n.pitch.toNat = min 16383 b.pitch.toNat ∧ n.length = b.length.toNat ∧
     n.startVolume.val = b.envelope.toNat / 16 ∧ (n.envelopeUp = true ↔ b.envelope.toNat / 8 % 2 = 1) ∧
     n.pace.val = b.envelope.toNat % 8 ∧ n.left.val = b.pan.toNat / 64 ∧ n.right.val = b.pan.toNat / 16 % 4 ∧
     n.marker = (if b.marker = 0 then none else some b.marker) ∧
     (b.cue.toNat < 128 → n.cue = none) ∧
     (128 ≤ b.cue.toNat → ∃ q, n.cue = some q ∧ q.pattern.val = b.cue.toNat % 16 ∧
       q.priority.val = b.cue.toNat / 16 % 4)) ∧
  (∀ (voice count : Byte) (n1 n2 n3 : NoteBytes) (s : State), s.Accepts →
     (7 < voice.toNat ∨ count = 0 ∨ 3 < count.toNat → Answers (.queueNotes voice count n1 n2 n3) s .range []) ∧
     (voice.toNat ≤ 7 → count ≠ 0 → count.toNat ≤ 3 → ∀ good bad rest,
       [n1, n2, n3].take count.toNat = good ++ bad :: rest → (∀ b ∈ good, noteOf b ≠ none) → noteOf bad = none →
       Answers (.queueNotes voice count n1 n2 n3) s .range [nat1 (good.length + 1)]) ∧
     ∀ (v : VoiceNo) (before after : Voice) (entries joined : List Note), voice.toNat = v.val → count ≠ 0 →
       count.toNat ≤ 3 → ([n1, n2, n3].take count.toNat).map noteOf = entries.map some →
       before = s.sound.voices.get v → joined = entries.take (16 - before.queue.length) →
       after =
         { before with
           queue := before.queue ++ joined
           state :=
             if joined = [] then before.state
             else
               match before.state with
               | .idle => .idle
               | .playing => .playing
               | .starved => .playing
               | .held _ => .held .playing } →
       ServedAs (.queueNotes voice count n1 n2 n3) s fun u =>
         { u with sound := { u.sound with voices := u.sound.voices.set v after } }.answer
           (if joined.length = count.toNat then .ok else .part)
           [voice, nat1 joined.length, nat1 after.queue.length,
             match after.state with | .idle => 0 | .playing => 1 | .starved => 2 | .held _ => 3])

/-- SET-VOICE, SET-MASTER and LOAD-WAVE: the refusals, the values they set (a refill threshold rounded down to a
multiple of 4 and at most 12, a master volume at most 31, samples at most 15) and their answers. READ-VOICES answers
each voice and clears the clipped-frame count; READ-MARKERS removes every marker and clears the dropped mark. Nothing
else changes. -/
def Obligations.SoundSettingsAndReaders : Prop :=
  (∀ (voice group conditioning refill : Byte) (s : State), s.Accepts →
    (7 < voice.toNat ∨ 1 < group.toNat ∨ 1 < conditioning.toNat →
      Answers (.setVoice voice group conditioning refill) s .range []) ∧
    ∀ v : VoiceNo, voice.toNat = v.val → group.toNat ≤ 1 → conditioning.toNat ≤ 1 → ∀ threshold : Nat,
      threshold = (if 12 ≤ refill.toNat then 12 else refill.toNat / 4 * 4) →
      ServedAs (.setVoice voice group conditioning refill) s fun u =>
        { u with
          sound :=
            { u.sound with
              voices :=
                u.sound.voices.set v
                  { u.sound.voices.get v with
                    group := if group = 0 then .a else .b
                    conditioning := if conditioning = 0 then .silence else .hold
                    refill := threshold } } }.answer .ok [group, conditioning, nat1 threshold]) ∧
  (∀ (volume : Byte) (s : State), s.Accepts →
    ServedAs (.setMaster volume) s fun u =>
      { u with sound := { u.sound with master := min 31 volume.toNat } }.answer .ok
        [nat1 u.sound.master, nat1 (min 31 volume.toNat)]) ∧
  (∀ (table : Byte) (s : State), s.Accepts →
    (7 < table.toNat → Answers (.loadWave table) s .range []) ∧
    ∀ (w : Fin 8) (wave : Wave), table.toNat = w.val →
      (∀ j : Fin 32, (wave.get j).val = min 15 (s.window.buffer.get (j.castLE (by decide))).toNat) →
      ServedAs (.loadWave table) s fun u =>
        { u with sound := { u.sound with waves := u.sound.waves.set w wave } }.answer .ok
          [table, nat1 ((s.window.buffer.items.take 32).countP fun (b : Byte) => decide (15 < b.toNat))]) ∧
  (∀ (s : State) (marks : Byte), s.Accepts →
    (∀ v : VoiceNo, marks.getLsbD v.val = (s.sound.voices.get v).startMark) →
    ServedAs .readVoices s fun u =>
      { u with sound := { u.sound with clipped := 0 } }.answer .ok
        ((u.sound.voices.items.flatMap fun (v : Voice) =>
            [match v.state with | .idle => (0 : Byte) | .playing => 1 | .starved => 2 | .held _ => 3,
              nat1 v.queue.length, v.current.elim (255 : Byte) fun n => n.timbre.code]) ++
          [marks] ++ nat2 u.sound.clipped)) ∧
  ∀ s : State, s.Accepts →
    ServedAs .readMarkers s fun u =>
      { u with sound := { u.sound with markers := [], dropped := false } }.answer .ok
        ([nat1 u.sound.markers.length, flag1 u.sound.dropped] ++ u.sound.markers)

/-- START-VOICES, HOLD-VOICES, RELEASE-VOICES and STOP-VOICES act on the named voices they can act on, and on no other
voice; each answers the mask of those, and STOP-VOICES also the queue entries discarded. Nothing else changes. -/
def Obligations.VoiceMaskRequests : Prop :=
  ∀ (mask : Byte) (s : State), s.Accepts →
    (∃ (voices : Table Voice 8) (acted : Byte),
      (ServedAs (.startVoices mask) s fun u =>
        { u with sound := { u.sound with voices := voices } }.answer .ok [acted]) ∧
      ∀ v, acted.getLsbD v.val = (mask.getLsbD v.val && (s.sound.voices.get v).state == .idle) ∧
        voices.get v =
          if acted.getLsbD v.val = true then { s.sound.voices.get v with startMark := true }
          else s.sound.voices.get v) ∧
    (∃ (voices : Table Voice 8) (acted : Byte),
      (ServedAs (.holdVoices mask) s fun u =>
        { u with sound := { u.sound with voices := voices } }.answer .ok [acted]) ∧
      ∀ v,
        (mask.getLsbD v.val = true → (s.sound.voices.get v).state = .playing →
          acted.getLsbD v.val = true ∧ voices.get v = { s.sound.voices.get v with state := .held .playing }) ∧
        (mask.getLsbD v.val = true → (s.sound.voices.get v).state = .starved →
          acted.getLsbD v.val = true ∧ voices.get v = { s.sound.voices.get v with state := .held .starved }) ∧
        (mask.getLsbD v.val = false ∨ (s.sound.voices.get v).state = .idle ∨
            (∃ p, (s.sound.voices.get v).state = .held p) →
          acted.getLsbD v.val = false ∧ voices.get v = s.sound.voices.get v)) ∧
    (∃ (voices : Table Voice 8) (acted : Byte),
      (ServedAs (.releaseVoices mask) s fun u =>
        { u with sound := { u.sound with voices := voices } }.answer .ok [acted]) ∧
      ∀ v,
        (mask.getLsbD v.val = true → (s.sound.voices.get v).state = .held .playing →
          acted.getLsbD v.val = true ∧ voices.get v = { s.sound.voices.get v with state := .playing }) ∧
        (mask.getLsbD v.val = true → (s.sound.voices.get v).state = .held .starved →
          acted.getLsbD v.val = true ∧ voices.get v = { s.sound.voices.get v with state := .starved }) ∧
        (mask.getLsbD v.val = false ∨ (∀ p, (s.sound.voices.get v).state ≠ .held p) →
          acted.getLsbD v.val = false ∧ voices.get v = s.sound.voices.get v)) ∧
    ∃ (voices : Table Voice 8) (acted : Byte),
      (ServedAs (.stopVoices mask) s fun u =>
        { u with sound := { u.sound with voices := voices } }.answer .ok
          [acted,
            nat1 ((List.finRange 8).map fun (v : Fin 8) =>
              if mask.getLsbD v.val = true then (s.sound.voices.get v).queue.length else 0).sum]) ∧
      ∀ v, acted.getLsbD v.val = (mask.getLsbD v.val && (s.sound.voices.get v).state != .idle) ∧
        voices.get v =
          if mask.getLsbD v.val = true then
            { s.sound.voices.get v with
              queue := [], current := none, spent := false, startMark := false, state := .idle }
          else s.sound.voices.get v

/-- A voice at a sound tick: IDLE without a start mark and HELD stand still; a start mark starts the voice with the
head of its queue or STARVED; STARVED runs its envelope; PLAYING counts its note down, runs its envelope, and when the
note has ended takes the head of its queue, or becomes STARVED with the note spent. -/
def Obligations.VoiceProgressAtASoundTick : Prop :=
  ∀ (v run : Voice) (taken : Note → List Note → Voice) (ended : Bool), v.Wf →
    (∀ n rest, taken n rest =
      { v with
        state := .playing, queue := rest, current := some n, spent := false, startMark := false, phase := 0,
        volume := n.startVolume, lengthCounter := n.length, paceCounter := n.pace.val * 4,
        noise := if n.timbre = .noiseLong ∨ n.timbre = .noiseShort then 0x7FFF else v.noise }) →
    (v.current = none → run = v ∧ ended = true) →
    (∀ n, v.current = some n →
      run =
        { v with
          lengthCounter :=
            if v.state = .playing ∧ v.spent = false ∧ n.length ≠ 0 then v.lengthCounter - 1 else v.lengthCounter
          paceCounter :=
            if n.pace = 0 then v.paceCounter
            else if v.paceCounter ≤ 1 then n.pace.val * 4
            else v.paceCounter - 1
          volume :=
            if n.pace = 0 ∨ 1 < v.paceCounter then v.volume
            else if n.envelopeUp = true then (if h : v.volume.val < 15 then ⟨v.volume.val + 1, by omega⟩ else 15)
            else ⟨v.volume.val - 1, by omega⟩ } ∧
      ended =
        (v.spent || (if n.length = 0 then decide (v.queue ≠ []) else decide (v.lengthCounter ≤ 1)))) →
    (v.state = .idle → v.startMark = false → v.progress = { voice := v, began := none, starved := false }) ∧
    (∀ prior, v.state = .held prior → v.progress = { voice := v, began := none, starved := false }) ∧
    (v.state = .idle → v.startMark = true → v.queue = [] →
      v.progress = { voice := { v with startMark := false, state := .starved }, began := none, starved := true }) ∧
    (∀ n rest, v.state = .idle → v.startMark = true → v.queue = n :: rest →
      v.progress = { voice := taken n rest, began := some n, starved := false }) ∧
    (v.state = .starved → v.progress = { voice := run, began := none, starved := false }) ∧
    (v.state = .playing → ended = false → v.progress = { voice := run, began := none, starved := false }) ∧
    (∀ n rest, v.state = .playing → ended = true → v.queue = n :: rest →
      v.progress = { voice := taken n rest, began := some n, starved := false }) ∧
    (v.state = .playing → ended = true → v.queue = [] →
      v.progress =
        { voice := { run with state := .starved, spent := v.current.isSome }, began := none, starved := true })

/-- A sound tick handed on, in RUN: every voice progresses; markers of the notes that become current join the list in
ascending voice number while it holds fewer than 8, the dropped mark being set otherwise; their cues are offered;
STARVED is raised with the voices that starved; in a fade the master volume falls by 1; then that frame is computed
and sent. A fade at master volume 0 completes: DOZE, and DONE with the saved master. That a tick is a row of its own
is the model's choice (log 9). -/
def Obligations.SoundTicksAndFadeComplete : Prop :=
  (∀ (s : State) (began : List Note) (starved : Byte), s.power.main = .run → s.sound.tickHanded = true →
    began = s.sound.voices.items.filterMap (fun (v : Voice) => v.progress.began) →
    (∀ v : VoiceNo, starved.getLsbD v.val = (s.sound.voices.get v).progress.starved) →
    exec .soundTick s =
      .next { s with
        sound :=
          { s.sound with
            voices := s.sound.voices.map fun (v : Voice) => v.progress.voice
            markers := s.sound.markers ++ (began.filterMap Note.marker).take (8 - s.sound.markers.length)
            dropped :=
              s.sound.dropped || decide (8 < s.sound.markers.length + (began.filterMap Note.marker).length)
            cues := s.sound.cues ++ began.filterMap Note.cue
            master := if s.window.work = some Work.quiesce then s.sound.master - 1 else s.sound.master
            tickHanded := false }
        notices :=
          if starved = 0 then s.notices
          else
            { s.notices with
              starved := { pending := true, voices := s.notices.starved.voices ||| starved } } }.frame) ∧
  ∀ (s : State) (m : Nat), s.power.main = .run → s.window.work = some .quiesce → s.sound.master = 0 →
    s.sound.savedMaster = some m →
    exec .fadeComplete s = .next ({ s with power := { s.power with main := .doze } }.answer .done [nat1 m])

/-- A frame: the phase of each PLAYING or STARVED voice with a current note rises by its pitch step modulo 65536, and
its noise register advances under a noise timbre when that moves the position; the four slot values are the group sums
of PAIR or SPLIT times the master volume, bounded to 16 signed bits; the clipped-frame count rises, held at 65535,
when one was bounded; slot j is sent in position (j + offset) mod 4 as a 16-bit two's-complement word, and ASD carries
the four words from position 0 on, each high bit first. Nothing else changes. The count of frames sent is the model's
own (log 25). -/
def Obligations.FramesAreComputedAndSent : Prop :=
  ∀ (s : State) (al ar bl br : Int) (products : Fin 4 → Int),
    al = ∑ v : VoiceNo, (if (s.sound.voices.get v).group = .a then (s.sound.voices.get v).leftShare s.sound.waves else 0) →
    ar = ∑ v : VoiceNo, (if (s.sound.voices.get v).group = .a then (s.sound.voices.get v).rightShare s.sound.waves else 0) →
    bl = ∑ v : VoiceNo, (if (s.sound.voices.get v).group = .b then (s.sound.voices.get v).leftShare s.sound.waves else 0) →
    br = ∑ v : VoiceNo, (if (s.sound.voices.get v).group = .b then (s.sound.voices.get v).rightShare s.sound.waves else 0) →
    products =
      (if s.link.format = .pair then ![(al + bl) * s.sound.master, (ar + br) * s.sound.master, 0, 0]
       else ![al * s.sound.master, ar * s.sound.master, bl * s.sound.master, br * s.sound.master]) →
    (∀ (l : Link) (p : Fin 4) (k : Fin 16), l.asd[16 * p.val + k.val]? = some ((l.sent.get p).getLsbD (15 - k.val))) ∧
    ∃ (voices : Table Voice 8) (sent : Table Half 4),
      s.frame =
        { s with
          sound :=
            { s.sound with
              voices := voices
              clipped :=
                if ∃ j, products j < -32768 ∨ 32767 < products j then min 65535 (s.sound.clipped + 1)
                else s.sound.clipped }
          link := { s.link with sent := sent, framesSent := s.link.framesSent + 1 } } ∧
      (∀ j : Fin 4, (sent.get (j + s.link.offset)).toInt = max (-32768) (min 32767 (products j))) ∧
      ∀ v : VoiceNo,
        (((s.sound.voices.get v).state = .playing ∨ (s.sound.voices.get v).state = .starved) →
          ∀ n, (s.sound.voices.get v).current = some n →
            ∃ noise : BitVec 15,
              voices.get v =
                { s.sound.voices.get v with phase := (s.sound.voices.get v).phase + n.pitch, noise := noise } ∧
              (if (n.timbre = .noiseLong ∨ n.timbre = .noiseShort) ∧
                  ((s.sound.voices.get v).phase + n.pitch).toNat / 2048 ≠ (s.sound.voices.get v).phase.toNat / 2048 then
                ∀ k, k < 15 → noise.getLsbD k =
                  if k = 14 ∨ (k = 6 ∧ n.timbre = .noiseShort) then
                    ((s.sound.voices.get v).noise.getLsbD 0 ^^ (s.sound.voices.get v).noise.getLsbD 1)
                  else (s.sound.voices.get v).noise.getLsbD (k + 1)
              else noise = (s.sound.voices.get v).noise)) ∧
        ((s.sound.voices.get v).state = .idle ∨ (∃ p, (s.sound.voices.get v).state = .held p) ∨
            (s.sound.voices.get v).current = none → voices.get v = s.sound.voices.get v)

/-- A voice's output is (2 q - 15) times its volume, with q by its timbre at the position of its phase, and 0 where no
sample is used; its shares are the output times the gains of its current note; the output lies from -225 to 225 and
each share from -675 to 675. -/
def Obligations.VoiceOutputsAndShares : Prop :=
  ∀ (v : Voice) (waves : Table Wave 8),
    (v.state = .idle ∨ (∃ p, v.state = .held p) ∨ v.current = none ∨
        ((v.state = .starved ∨ v.spent = true) ∧ v.conditioning = .silence) →
      v.output waves = 0 ∧ v.leftShare waves = 0 ∧ v.rightShare waves = 0) ∧
    (∀ n, v.current = some n → (v.state = .playing ∨ v.state = .starved) →
      ((v.state = .playing ∧ v.spent = false) ∨ v.conditioning = .hold) →
      v.leftShare waves = v.output waves * n.left.val ∧ v.rightShare waves = v.output waves * n.right.val ∧
      ∀ p : Fin 32, v.phase.toNat / 2048 = p.val →
        v.output waves =
          match n.timbre with
          | .square12 => (if p < 4 then 15 else -15) * v.volume.val
          | .square25 => (if p < 8 then 15 else -15) * v.volume.val
          | .square50 => (if p < 16 then 15 else -15) * v.volume.val
          | .square75 => (if p < 24 then 15 else -15) * v.volume.val
          | .wave t => (2 * (((waves.get t).get p).val : Int) - 15) * v.volume.val
          | .noiseLong => (if v.noise.getLsbD 0 = true then -15 else 15) * v.volume.val
          | .noiseShort => (if v.noise.getLsbD 0 = true then -15 else 15) * v.volume.val
          | .rest => 0) ∧
    -225 ≤ v.output waves ∧ v.output waves ≤ 225 ∧ -675 ≤ v.leftShare waves ∧ v.leftShare waves ≤ 675 ∧
    -675 ≤ v.rightShare waves ∧ v.rightShare waves ≤ 675

/-- Every step keeps the sound engine in good order: queues at most 16 and empty while STARVED, counters and settings
in their ranges, no noise register all zeros, at most 8 markers, the master volume at most 31, the clipped-frame count
at most 65535. -/
def Obligations.SoundWfKept : Prop :=
  ∀ s t : State, s.sound.Wf → step s = .next t → t.sound.Wf

/-! ### The audio link -/

/-- SET-LINK: the refusals; with the mode unchanged only format and offset change; a changed mode enters MASTER or
SEEKING with runs 0 and no reference, the own timing running on, or from SLAVE beginning one period after the
reference instant, or at the step when that has passed. READ-LINK answers the link's fields and clears the slip count.
That the step's instant is an operand, and that a frame instant made at the step follows the new settings, are the
model's choices (log 11, log 29). -/
def Obligations.LinkRequests : Prop :=
  (∀ (mode format offset : Byte) (now : Instant) (s : State), s.Accepts →
    (1 < mode.toNat ∨ 1 < format.toNat ∨ 3 < offset.toNat → Answers (.setLink mode format offset now) s .range []) ∧
    ∀ (m : LinkMode) (f : SlotFormat) (o : Fin 4) (u : State) (changed : Link), mode = m.code → format = f.code →
      offset.toNat = o.val → u = s.serving (.setLink mode format offset now) →
      changed =
        { u.link with
          mode := m, format := f, offset := o, goodRun := 0, substitutionRun := 0, reference := none
          state := if m = .own then .master else .seeking } →
      (s.link.mode = m →
        exec (.setLink mode format offset now) s =
          .next ({ u with link := { u.link with format := f, offset := o } }.answer .ok
            [mode, u.link.state.code, format, offset])) ∧
      (s.link.mode ≠ m → s.link.state ≠ .slave →
        exec (.setLink mode format offset now) s =
          .next ({ u with link := changed }.answer .ok [mode, changed.state.code, format, offset])) ∧
      ∀ r : Instant, s.link.mode ≠ m → s.link.state = .slave → s.link.reference = some r →
        (now ≤ r + 15625 →
          exec (.setLink mode format offset now) s =
            .next ({ u with link := { changed with ownNext := r + 15625 } }.answer .ok
              [mode, changed.state.code, format, offset])) ∧
        (r + 15625 < now → ∃ t, exec .frameInstant { u with link := { changed with ownNext := now } } = .next t ∧
          exec (.setLink mode format offset now) s =
            .next (t.answer .ok [mode, changed.state.code, format, offset]))) ∧
  ∀ s : State, s.Accepts →
    ServedAs .readLink s fun u =>
      { u with link := { u.link with slips := 0 } }.answer .ok
        [match u.link.mode with | .follow => (0 : Byte) | .own => 1,
          match u.link.state with | .seeking => (0 : Byte) | .slave => 1 | .master => 2,
          match u.link.format with | .pair => (0 : Byte) | .split => 1,
          nat1 u.link.offset.val, nat1 u.link.slips, nat1 u.link.goodRun]

/-- A frame instant: in DOZE, and while the outputs hold after power-going, four zeros are sent and nothing else
moves; in RUN it is a frame event, which raises the tick phase and computes and sends its frame, or, as the 128th, is
a sound tick handed on, every fourth of them a rumble unit handed on. FRAME_INSTANT makes one at the own timing in
SEEKING and MASTER and none in SLAVE. That a tick still with the engine is completed first is the model's choice (log
9), as are the end of the rest frames (log 20), that FRAME_INSTANT in SLAVE changes nothing (log 2), and the own
timing exactly nominal, 15625 units of 1/512 microsecond from one frame instant to the next (log 11). -/
def Obligations.FrameInstantsMakeFrameEvents : Prop :=
  (∀ s : State, s.power.main = .run → s.sound.tickHanded = false → s.link.tickPhase + 1 < 128 →
    s.frameInstant = { s with link := { s.link with tickPhase := s.link.tickPhase + 1 } }.frame) ∧
  (∀ s : State, s.power.main = .run → s.sound.tickHanded = false → 128 ≤ s.link.tickPhase + 1 →
    s.frameInstant =
      { s with
        link :=
          { s.link with
            tickPhase := 0
            unitPhase := if s.link.unitPhase + 1 < 4 then s.link.unitPhase + 1 else 0
            unitsHanded := if s.link.unitPhase + 1 < 4 then s.link.unitsHanded else s.link.unitsHanded + 1 }
        sound := { s.sound with tickHanded := true } }) ∧
  (∀ s t : State, s.power.main = .run → s.sound.tickHanded = true → exec .soundTick s = .next t →
    s.frameInstant = t.frameInstant) ∧
  (∀ s : State, s.power.main = .doze →
    s.frameInstant =
      { s with link := { s.link with sent := Table.fill 4 0, framesSent := s.link.framesSent + 1 } }) ∧
  (∀ s : State, s.power.main ≠ .off → s.link.state ≠ .slave →
    exec .frameInstant s =
      .next { s with
        link :=
          { s.link with ownLast := some s.link.ownNext, ownNext := s.link.ownNext + 15625 } }.frameInstant) ∧
  (∀ s : State, s.power.main ≠ .off → s.link.state = .slave → exec .frameInstant s = .next s) ∧
  ∀ s : State, s.power.main = .off → s.link.outputsHold = true →
    exec .frameInstant s =
      .next { s with link := { s.link with sent := Table.fill 4 0, framesSent := s.link.framesSent + 1 } }

/-- A strobe: unwatched in OWN and with the main domain OFF; the first becomes the reference; then it is bad below
30.0, good from 30.0 to 31.0 and late above 31.0 microseconds. In SLAVE a good strobe, and a late one up to 32.0,
makes a frame instant; in SEEKING and MASTER the sixteenth good one in a row enters SLAVE, raising LINK "regained"
from MASTER, and makes a frame instant unless an own one came less than 15.0 microseconds before it. Times are in
1/512 microsecond (log 11). SUBSTITUTION in SLAVE: a frame instant is made; the slip count rises, held at 255; the
reference moves forward by one nominal period and the substitution run rises; at the fourth in a row the link enters
MASTER with no reference, its own timing one period after the missed strobe, and raises LINK "lost". -/
def Obligations.StrobesAndSubstitutions : Prop :=
  (∀ (arrival : Instant) (s : State),
     (s.power.main = .off ∨ s.link.mode = .own → exec (.fsiStrobe arrival) s = .next s) ∧
     (s.power.main ≠ .off → s.link.mode = .follow →
       (s.link.reference = none →
         exec (.fsiStrobe arrival) s = .next { s with link := { s.link with reference := some arrival } }) ∧
       ∀ r : Instant, s.link.reference = some r →
         (s.link.state = .slave →
           (arrival < r + 15360 → exec (.fsiStrobe arrival) s = .next s) ∧
           (r + 15360 ≤ arrival → arrival ≤ r + 16384 →
             exec (.fsiStrobe arrival) s =
               .next { s with
                 link := { s.link with reference := some arrival, substitutionRun := 0 } }.frameInstant)) ∧
         (s.link.state ≠ .slave →
           (arrival < r + 15360 →
             exec (.fsiStrobe arrival) s = .next { s with link := { s.link with goodRun := 0 } }) ∧
           (r + 15872 < arrival →
             exec (.fsiStrobe arrival) s =
               .next { s with link := { s.link with goodRun := 0, reference := some arrival } }) ∧
           (r + 15360 ≤ arrival → arrival ≤ r + 15872 →
             (s.link.goodRun < 15 →
               exec (.fsiStrobe arrival) s =
                 .next { s with
                   link := { s.link with goodRun := s.link.goodRun + 1, reference := some arrival } }) ∧
             (15 ≤ s.link.goodRun → ∀ t : State,
               t = { s with
                 link :=
                   { s.link with state := .slave, reference := some arrival, goodRun := 0, substitutionRun := 0 }
                 notices :=
                   if s.link.state = .master then
                     { s.notices with link := { s.notices.link with pending := true, regained := true } }
                   else s.notices } →
               ((∀ own, s.link.ownLast = some own → own + 7680 ≤ arrival) →
                 exec (.fsiStrobe arrival) s = .next t.frameInstant) ∧
               ∀ own, s.link.ownLast = some own → arrival < own + 7680 →
                 exec (.fsiStrobe arrival) s = .next t))))) ∧
  (∀ (s : State) (r : Instant), s.power.main ≠ .off → s.link.state = .slave → s.link.reference = some r →
     (s.link.substitutionRun < 3 →
       exec .substitution s =
         .next { s with
           link :=
             { s.link with
               slips := min 255 (s.link.slips + 1)
               substitutionRun := s.link.substitutionRun + 1
               reference := some (r + 15625) } }.frameInstant) ∧
     (3 ≤ s.link.substitutionRun →
       exec .substitution s =
         .next { s with
           link :=
             { s.link with
               slips := min 255 (s.link.slips + 1)
               substitutionRun := 0
               reference := none
               state := .master
               ownNext := r + 15625 + 15625 }
           notices :=
             { s.notices with link := { s.notices.link with pending := true, lost := true } } }.frameInstant))

/-- Every step keeps the link in good order: phases, runs and slips in their ranges, OWN always MASTER with no
reference, SLAVE always FOLLOW with one. -/
def Obligations.LinkWfKept : Prop :=
  ∀ s t : State, s.link.Wf → step s = .next t → t.link.Wf

/-! ### Rumble -/

/-- A new request, from PLAY-PATTERN or a cue, by the first row that fits: no pattern; nothing current; priority above
the current one's; room in the queue; a full queue whose last request has lower priority; a full queue otherwise. One
that becomes current has its started mark clear (its playing field none: R157 gives its other working fields no value
before its start, log 13). PLAY-PATTERN answers the outcome; a cue is ignored with the quiet mark set or its pattern
not loaded, and counted when lost. A request that becomes current from STILL under the supply-low mark raises POWER
"rumble halted" (R168). PLAY-PATTERN is refused with RANGE for a pattern above 15 or a priority above 3, and is
otherwise a request of origin console; the oldest cue offered is taken as one of origin cue. Nothing but the driver,
POWER's raise when a request enters HALTED from STILL, and the answer or the offer changes. -/
def Obligations.NewRumbleRequests : Prop :=
  (∀ (q : RumbleRequest) (r r' : Rumble) (code : Result) (data : List Byte), r.Wf →
     r' = (r.request q).1 → (code, data) = playAnswer r r' q (r.request q).2 →
     (r.quiet = true → q.origin = .cue → r' = r) ∧
     (r.quiet = false ∨ q.origin = .console →
       (r.loaded q.pattern = false → r' = r ∧ code = .noPattern ∧
         data = [nat1 r.queue.length, r.current.elim 255 fun c => nat1 c.request.priority.val]) ∧
       (r.loaded q.pattern = true →
         (r.current = none →
           r' = { r with
             current := some { request := q, playing := none } } ∧
           code = .ok ∧ data = [0, nat1 r.queue.length, 255]) ∧
         ∀ c, r.current = some c →
           (c.request.priority < q.priority →
             r' = { r with
               current := some { request := q, playing := none }
               kick := false } ∧
             code = .ok ∧
             data = [1, nat1 r.queue.length, 255, nat1 c.request.pattern.val,
               if c.request.origin = .console then 0 else 1]) ∧
           (q.priority ≤ c.request.priority → ∀ (base ahead behind : List RumbleRequest),
             base = (if r.queue.length < 4 then r.queue else r.queue.dropLast) →
             ahead = base.filter (fun x => decide (q.priority ≤ x.priority)) →
             behind = base.filter (fun x => decide (x.priority < q.priority)) →
             (r.queue.length < 4 →
               r' = { r with queue := ahead ++ q :: behind } ∧ code = .ok ∧
               data = [2, nat1 (r.queue.length + 1), nat1 ahead.length]) ∧
             ∀ last, r.queue.length = 4 → r.queue.getLast? = some last →
               (last.priority < q.priority →
                 r' = { r with
                   queue := ahead ++ q :: behind
                   droppedCues :=
                     if last.origin = .cue then min 255 (r.droppedCues + 1) else r.droppedCues } ∧
                 code = .ok ∧
                 data = [3, 4, nat1 ahead.length, nat1 last.pattern.val,
                   if last.origin = .console then 0 else 1]) ∧
               (q.priority ≤ last.priority →
                 r' = { r with
                   droppedCues := if q.origin = .cue then min 255 (r.droppedCues + 1) else r.droppedCues } ∧
                 code = .queueFull ∧ data = [4, nat1 c.request.priority.val]))))) ∧
  ((∀ (pattern priority : Byte) (s : State), s.Accepts →
     (15 < pattern.toNat ∨ 3 < priority.toNat → Answers (.playPattern pattern priority) s .range []) ∧
     ∀ (p : Fin 16) (n : Fin 4) (q : RumbleRequest), pattern.toNat = p.val → priority.toNat = n.val →
       q = { pattern := p, priority := n, origin := .console } →
       ServedAs (.playPattern pattern priority) s fun u =>
         { u with
           rumble := (u.rumble.request q).1
           notices :=
             if u.rumble.current = none ∧ (u.rumble.request q).1.current ≠ none ∧ u.rumble.supplyLow = true then
               { u.notices with power := { u.notices.power with pending := true, halted := true } }
             else u.notices }.answer
           (playAnswer u.rumble (u.rumble.request q).1 q (u.rumble.request q).2).1
           (playAnswer u.rumble (u.rumble.request q).1 q (u.rumble.request q).2).2) ∧
   ∀ (s : State) (c : Cue) (rest : List Cue) (q : RumbleRequest), s.sound.cues = c :: rest →
     q = { pattern := c.pattern, priority := c.priority, origin := .cue } →
     exec .cue s =
       .next { s with
         sound := { s.sound with cues := rest }
         rumble := (s.rumble.request q).1
         notices :=
           if s.rumble.current = none ∧ (s.rumble.request q).1.current ≠ none ∧ s.rumble.supplyLow = true then
             { s.notices with power := { s.notices.power with pending := true, halted := true } }
           else s.notices })

/-- LOAD-PATTERN: refused for a pattern above 15, a step count above 32 or a repeat above 15; otherwise the pattern
takes its steps from the transfer buffer, a duration of 0 taken as 1; a step count of 0 removes the queued requests
that name it; a current request that names it ends, the head of the queue becoming current and not started, or STILL
with RUMBLE "done". STOP-RUMBLE makes the driver STILL with an empty queue; SET-RUMBLE sets strength and kick setting,
clearing the kick mark when it turns off; READ-RUMBLE answers the driver's fields and clears the dropped-cue count.
Nothing else changes. Before the start of the current request its step position, units left and plays left, to which
R157 and R161 give no value yet, are whatever they are within their ranges, and with no current request READ-RUMBLE's
pattern is 255, and the six fields R171 does not state are whatever they are (free values, log 13): the statement
holds for every value. -/
def Obligations.RumblePatternsAndSettings : Prop :=
  (∀ (pattern count repeats : Byte) (s : State), s.Accepts →
     (15 < pattern.toNat ∨ 32 < count.toNat ∨ 15 < repeats.toNat →
       Answers (.loadPattern pattern count repeats) s .range []) ∧
     ∀ (p : Fin 16) (steps : List RumbleStep) (zeros : Nat) (queue : List RumbleRequest) (ended : Bool),
       pattern.toNat = p.val → count.toNat ≤ 32 → repeats.toNat ≤ 15 →
       steps = (List.finRange 32).filterMap (fun k =>
         if k.val < count.toNat then
           some { level := (Area.byteAt s.window.buffer (2 * k.val)).toNat,
                  duration := max 1 (Area.byteAt s.window.buffer (2 * k.val + 1)).toNat }
         else none) →
       zeros = ((List.range count.toNat).filter fun k => Area.byteAt s.window.buffer (2 * k + 1) = 0).length →
       queue = (if count = 0 then s.rumble.queue.filter (fun q => q.pattern != p) else s.rumble.queue) →
       ended = decide (∃ c ∈ s.rumble.current, c.request.pattern = p) →
       ServedAs (.loadPattern pattern count repeats) s fun u =>
         { u with
           rumble :=
             { u.rumble with
               patterns := u.rumble.patterns.set p { steps := steps, repeats := repeats.toNat }
               queue := if ended = true then queue.tail else queue
               current :=
                 if ended = true then queue.head?.map fun q => { request := q, playing := none }
                 else u.rumble.current
               kick := if ended = true then false else u.rumble.kick }
           notices :=
             if ended = true ∧ queue = [] then { u.notices with rumble := { pending := true, done := true } }
             else u.notices }.answer .ok
           [pattern, count, repeats, nat1 zeros, flag1 ended, nat1 (s.rumble.queue.length - queue.length)]) ∧
  ((∀ s : State, s.Accepts →
     ServedAs .stopRumble s fun u =>
       { u with rumble := { u.rumble with current := none, queue := [], kick := false } }.answer .ok
         [u.rumble.current.elim 255 fun c => nat1 c.request.pattern.val, nat1 u.rumble.queue.length]) ∧
   (∀ (strength kick : Byte) (s : State), s.Accepts →
     (1 < kick.toNat → Answers (.setRumble strength kick) s .range []) ∧
     (kick.toNat ≤ 1 → ∀ (u v : State), u = s.serving (.setRumble strength kick) →
       v = { u with
         rumble :=
           { u.rumble with
             strength := min 15 strength.toNat
             kickSetting := decide (kick = 1)
             kick := u.rumble.kick && decide (kick = 1) } } →
       exec (.setRumble strength kick) s =
         .next (v.answer .ok [nat1 (min 15 strength.toNat), kick, nat1 v.duty]))) ∧
   ∀ s : State, s.Accepts → ∃ (draws : Nat) (current : List Byte),
     (ServedAs .readRumble s fun u =>
       { u with rumble := { u.rumble with droppedCues := 0 }, draws := draws }.answer .ok
         ([if u.rumble.current = none then (0 : Byte) else if u.rumble.supplyLow = true then 2 else 1] ++ current ++
           [nat1 u.duty, nat1 u.rumble.ceiling, flag1 u.rumble.supplyLow, flag1 u.rumble.kick,
             nat1 u.rumble.strength, flag1 u.rumble.kickSetting, nat1 u.rumble.queue.length] ++
           ((List.range 4).flatMap fun (k : Nat) =>
             match u.rumble.queue[k]? with
             | some (q : RumbleRequest) =>
               [nat1 q.pattern.val, nat1 q.priority.val, if q.origin = Origin.console then (0 : Byte) else 1]
             | none => [0, 0, 0]) ++
           [nat1 u.rumble.droppedCues])) ∧
     (∀ c p, s.rumble.current = some c → c.playing = some p →
       current =
         [nat1 c.request.pattern.val, nat1 c.request.priority.val, if c.request.origin = .console then 0 else 1, 1,
           nat1 p.position, nat1 p.unitsLeft, match p.plays with | .endless => 15 | .left n => nat1 n]) ∧
     (∀ c, s.rumble.current = some c → c.playing = none → ∃ position units plays : Nat,
       position ≤ 31 ∧ 1 ≤ units ∧ units ≤ 255 ∧ plays ≤ 15 ∧
       current =
         [nat1 c.request.pattern.val, nat1 c.request.priority.val, if c.request.origin = .console then 0 else 1, 0,
           nat1 position, nat1 units, nat1 plays]) ∧
     (s.rumble.current = none → ∃ f1 f2 f3 f4 f5 f6 : Byte, current = [255, f1, f2, f3, f4, f5, f6]))

/-- A rumble unit handed on, in RUN: the current request starts, or counts a unit, or begins its next step or its next
play, or finishes, the head of the queue then starting at the same unit, or the driver becoming STILL with RUMBLE
"done"; each step start sets the kick mark exactly when the kick applies, and it is clear otherwise. -/
def Obligations.RumbleUnitsProgress : Prop :=
  ∀ (s : State) (n : Nat), s.power.main = .run → s.link.unitsHanded = n + 1 → s.rumble.Wf →
    ∃ r : Rumble,
      exec .rumbleUnit s =
        .next { s with
          link := { s.link with unitsHanded := n }
          rumble := r
          notices :=
            if s.rumble.current ≠ none ∧ r.current = none then
              { s.notices with rumble := { pending := true, done := true } }
            else s.notices } ∧
      (s.rumble.current = none → r = s.rumble) ∧
      ∀ (c : CurrentRequest) (pattern : Pattern) (first : RumbleStep), s.rumble.current = some c →
        pattern = s.rumble.patterns.get c.request.pattern → pattern.steps[0]? = some first →
        (c.playing = none →
          r = s.rumble.begins s.duty c.request first 0
            (if pattern.repeats = 15 then .endless else .left pattern.repeats)) ∧
        (∀ p, c.playing = some p → 1 < p.unitsLeft →
          r = { s.rumble with
            kick := false, current := some { c with playing := some { p with unitsLeft := p.unitsLeft - 1 } } }) ∧
        (∀ p, c.playing = some p → p.unitsLeft = 1 →
          (∀ next, pattern.steps[p.position + 1]? = some next →
            r = s.rumble.begins s.duty c.request next (p.position + 1) p.plays) ∧
          (pattern.steps.length = p.position + 1 →
            (p.plays = .endless → r = s.rumble.begins s.duty c.request first 0 .endless) ∧
            (∀ k, p.plays = .left (k + 1) → r = s.rumble.begins s.duty c.request first 0 (.left k)) ∧
            (p.plays = .left 0 → s.rumble.queue = [] → r = { s.rumble with current := none, kick := false }) ∧
            ∀ q rest next, p.plays = .left 0 → s.rumble.queue = q :: rest →
              (s.rumble.patterns.get q.pattern).steps[0]? = some next →
              r = ({ s.rumble with queue := rest } : Rumble).begins s.duty q next 0
                (if (s.rumble.patterns.get q.pattern).repeats = 15 then .endless
                 else .left (s.rumble.patterns.get q.pattern).repeats)))

/-- The duty is 0 outside RUN, while nothing is current, while the supply-low mark is set, and before the request has
started; otherwise it is the lower of ceiling and requested duty of the present step, or, with the kick mark set, the
ceiling where that is above 0. The requested duty is floor((level strength + 7) / 15). It never exceeds the ceiling
nor 255. -/
def Obligations.DutyFollowsTheState : Prop :=
  (∀ level strength : Nat, requestedDuty level strength = (level * strength + 7) / 15) ∧
  (∀ level : Nat, requestedDuty level 15 = level ∧ requestedDuty level 0 = 0) ∧
  (∀ level strength : Nat, level ≤ 255 → strength ≤ 15 → requestedDuty level strength ≤ 255) ∧
  ∀ s : State,
    (s.power.main ≠ .run ∨ s.rumble.current = none ∨ s.rumble.supplyLow = true ∨
        (∀ c, s.rumble.current = some c → c.playing = none) → s.duty = 0) ∧
    (∀ (c : CurrentRequest) (p : Playing) (step : RumbleStep) (want : Nat), s.power.main = .run →
      s.rumble.current = some c → s.rumble.supplyLow = false → c.playing = some p →
      (s.rumble.patterns.get c.request.pattern).steps[p.position]? = some step →
      want = min s.rumble.ceiling ((step.level * s.rumble.strength + 7) / 15) →
      s.duty = if s.rumble.kick = true ∧ 0 < want then s.rumble.ceiling else want) ∧
    s.duty ≤ s.rumble.ceiling ∧ (s.rumble.Wf → s.duty ≤ 255)

/-- Every step keeps the driver in good order: the queue at most 4 long, in descending priority, of loaded patterns,
and empty while nothing is current; the current request at a step of its loaded pattern; ceiling, strength and counts
in their ranges. -/
def Obligations.RumbleWfKept : Prop :=
  ∀ s t : State, s.rumble.Wf → step s = .next t → t.rumble.Wf

/-! ### Power -/

/-- A supply reading while the keep domain runs: the latest reading and the cell-low mark. With the main domain OFF,
2,900 mV or more makes the main reset of a main start. With it up, POWER "cell low" when the mark is set from clear or
found set at the first reading; the ceiling, the supply-low mark with POWER "rumble halted" and "rumble resumed"; and
below 2,700 mV power-going. A wake event in OFF takes a supply reading, and is none while the main domain is up. nCRST
asserted is a main reset with the main domain up and with it OFF nothing but the line's level; released, the window
takes submits. A fall below 1,800 mV sets the retention-doubtful mark, and of keep memory and the catalog changes what
it names and nothing else: bytes, and the fields of a LIVE record's entry where the entry is one the catalog can hold;
below 1,500 mV the keep domain stops; at its return the calendar, the events, the store and power control take their
cell-reset values with the main domain OFF. That these events carry their readings and faults, what a keep-domain stop
leaves, and that the reset line keeps its level, are the model's choices (log 15, 16, 17, 18, 19), as are the main
blocks at their reset values while OFF (log 5), the mark that the outputs hold after power-going (log 20), keep memory
and the audit position after a cell reset (log 6, log 27), and that a wake event with the main domain up changes
nothing (log 2). -/
def Obligations.SupplyReadingsAndPowerEvents : Prop :=
  (∀ (s : State) (reading : Reading) (low : Bool), s.power.keepRuns = true →
     low = (if reading.cell.toNat < 2200 then true else if 2300 ≤ reading.cell.toNat then false else s.power.cellLow) →
     (s.power.main = .off → reading.console.toNat < 2900 →
       exec (.supplyReading reading) s =
         .next { s with power := { s.power with reading := reading, cellLow := low } }) ∧
     (s.power.main = .off → 2900 ≤ reading.console.toNat →
       ∃ t, exec (.supplyReading reading) s = .next t ∧
         MainResetOf { s with power := { s.power with reading := reading, cellLow := low } } t) ∧
     (s.power.main ≠ .off → ∀ (ceiling : Nat) (supplyLow : Bool) (v : State),
       ceiling =
         (if 3300 ≤ reading.console.toNat then 255
          else if 3000 ≤ reading.console.toNat then 255 * (reading.console.toNat - 3000) / 300 else 0) →
       supplyLow =
         (if reading.console.toNat < 2950 then true
          else if 3050 ≤ reading.console.toNat then false else s.rumble.supplyLow) →
       v = { s with
         power := { s.power with reading := reading, cellLow := low, firstReading := false }
         rumble := { s.rumble with ceiling := ceiling, supplyLow := supplyLow }
         notices :=
           { s.notices with
             power :=
               { pending :=
                   s.notices.power.pending || (low && (!s.power.cellLow || s.power.firstReading)) ||
                     (s.rumble.current.isSome && s.rumble.supplyLow != supplyLow)
                 cellLow := s.notices.power.cellLow || (low && (!s.power.cellLow || s.power.firstReading))
                 halted :=
                   s.notices.power.halted || (s.rumble.current.isSome && !s.rumble.supplyLow && supplyLow)
                 resumed :=
                   s.notices.power.resumed || (s.rumble.current.isSome && s.rumble.supplyLow && !supplyLow) } } } →
       (2700 ≤ reading.console.toNat → exec (.supplyReading reading) s = .next v) ∧
       (reading.console.toNat < 2700 →
         ∃ t, exec (.supplyReading reading) s = .next t ∧ PowerGoingOf v t))) ∧
  ((∀ (s : State) (reading : Reading), s.power.keepRuns = true →
     (s.power.main = .off →
       exec (.wakeEvent reading) s =
         exec (.supplyReading reading)
           { s with
             calendar := { s.calendar with minuteReadingTaken := decide (0 < s.calendar.minutesHanded) } }) ∧
     (s.power.main ≠ .off → exec (.wakeEvent reading) s = .next s)) ∧
   (∀ s : State,
     (s.power.main ≠ .off → ∃ t, exec .consoleReset s = .next t ∧
       MainResetOf { s with power := { s.power with resetHeld := true } } t) ∧
     (s.power.main = .off →
       exec .consoleReset s = .next { s with power := { s.power with resetHeld := true } }) ∧
     exec .consoleResetRelease s = .next { s with power := { s.power with resetHeld := false } }) ∧
   (∀ (s : State) (faults : List RetentionFault), s.power.keepRuns = true → s.MemoryWf →
     (∃ (memory : Memory) (catalog : List Entry),
       exec (.retentionDoubtful faults) s =
         .next { s with
           power := { s.power with retentionDoubtful := true }
           store := { s.store with memory := memory, catalog := catalog } } ∧
       (∀ a, Memory.read memory a =
         (faults.reverse.findSome? fun f =>
           match f with
           | .byte address value => if address.toNat = a then some value else none
           | .entry _ => none).getD (Memory.read s.store.memory a)) ∧
       catalog.map Entry.key = s.store.catalog.map Entry.key ∧
       (s.window.work ≠ none → catalog = s.store.catalog) ∧
       ∀ e ∈ s.store.catalog, (∀ f, RetentionFault.entry f ∈ faults → f.key.toNat ≠ e.key) → e ∈ catalog) ∧
     (∀ f rest t, faults = f :: rest → exec (.retentionDoubtful [f]) s = .next t →
       exec (.retentionDoubtful faults) s = exec (.retentionDoubtful rest) t) ∧
     ∀ f e, faults = [.entry f] → s.window.work = none → s.StoreWf → s.store.find f.key.toNat = some e →
       (e.shadow = none ∧ GoodLength f.length.toNat ∧ f.blocks.length = (f.length.toNat + 63) / 64 ∧ f.blocks.Nodup ∧
           (∀ b ∈ f.blocks, b ∈ e.blocks ∨ b ∈ s.store.freeBlocks) ∧ f.counters.length = e.counters.length ∧
           (∀ c ∈ f.counters, c.floor.toInt ≤ c.value.toInt ∧ c.value.toInt ≤ c.ceiling.toInt) →
         exec (.retentionDoubtful faults) s =
           .next { s with
             power := { s.power with retentionDoubtful := true }
             store := s.store.withEntry f.key.toNat fun x =>
               { x with
                 length := f.length.toNat, blocks := f.blocks, generation := f.generation.toNat, check := f.check,
                 damage := f.damage, audited := f.audited
                 counters := f.counters.map fun c =>
                   { value := c.value.toInt, floor := c.floor.toInt, ceiling := c.ceiling.toInt } } })) ∧
   ∀ s : State,
     exec .keepDomainStop s =
       .next { s with
         window := .reset, notices := .reset, sound := .reset, link := .reset, rumble := .reset
         power := { s.power with main := .off, keepRuns := false, firstReading := false } } ∧
     exec .cellReset s =
       .next { s with
         window := .reset, notices := .reset, sound := .reset, link := .reset, rumble := .reset
         calendar := State.reset.calendar, engine := State.reset.engine, store := State.reset.store
         power := { State.reset.power with resetHeld := s.power.resetHeld } })

/-- QUIESCE: refused with the open change count while changes are open; otherwise the driver stops with its quiet mark
set, the master volume is saved, and the window stays BUSY through the fade. READ-POWER answers power control's
fields, with the woken flag set when its own submit woke the part, and changes nothing. -/
def Obligations.QuiesceAndReadPower : Prop :=
  (∀ s : State, s.Accepts →
    (0 < s.store.openCount → Answers .quiesce s .changesOpen [nat1 s.store.openCount]) ∧
    (s.store.openCount = 0 →
      ServedAs .quiesce s fun u =>
        { u with
          rumble := { u.rumble with current := none, queue := [], kick := false, quiet := true }
          sound := { u.sound with savedMaster := some u.sound.master } }.holdWork .quiesce)) ∧
  ∀ s : State, s.Accepts →
    Answers .readPower s .ok
      (nat2 s.power.reading.console.toNat ++ nat2 s.power.reading.cell.toNat ++
        [1, if s.power.main = .doze then 1 else 0, 1, flag1 s.power.cellLow, flag1 s.power.retentionDoubtful,
          flag1 s.store.keepLost, nat1 s.store.changesLost])

/-- Every step keeps the conditions of DOZE and of the fade before it: no open change, the driver STILL with its quiet
mark set, the master volume saved; in DOZE no request in hand and master volume 0; the quiet mark and the saved master
at no other time; and a request in hand only in RUN. -/
def Obligations.DozeWfKept : Prop :=
  ∀ s t : State, s.DozeWf → step s = .next t → t.DozeWf
end

