-- ==== Sys2Proof/Laws/Table.lean ====
section
/-! SUPPORT. The laws of a table of fixed size: what each operation's places hold. -/

namespace Sys2Proof

variable {α β : Type} {n : Nat}

@[ext] theorem Table.ext_items {t u : Table α n} (h : t.items = u.items) : t = u := by
  cases t; cases u; cases h; rfl

theorem Table.get_eq (t : Table α n) (i : Fin n) (h : i.val < t.items.length) : t.get i = t.items[i.val] := rfl

@[simp] theorem Table.get_set_same (t : Table α n) (i : Fin n) (a : α) : (t.set i a).get i = a := by
  simp [Table.get, Table.set]

@[simp] theorem Table.get_set_other (t : Table α n) {i j : Fin n} (a : α) (h : i ≠ j) :
    (t.set i a).get j = t.get j := by
  have : i.val ≠ j.val := fun e => h (Fin.ext e)
  simp [Table.get, Table.set, this]

theorem Table.get_set (t : Table α n) (i j : Fin n) (a : α) :
    (t.set i a).get j = if i = j then a else t.get j := by
  by_cases h : i = j
  · subst h; simp
  · simp [h]

@[simp] theorem Table.get_map (f : α → β) (t : Table α n) (i : Fin n) : (t.map f).get i = f (t.get i) := by
  simp [Table.get, Table.map]

@[simp] theorem Table.get_fill (a : α) (i : Fin n) : (Table.fill n a).get i = a := by
  simp [Table.get, Table.fill]

@[simp] theorem Table.get_tabulate (f : Fin n → α) (i : Fin n) : (Table.tabulate n f).get i = f i := by
  simp [Table.get, Table.tabulate]

/-- Two tables that hold the same at every place are the same. -/
theorem Table.ext_get {t u : Table α n} (h : ∀ i, t.get i = u.get i) : t = u := by
  apply Table.ext_items
  apply List.ext_getElem
  · rw [t.size, u.size]
  · intro i h1 h2
    exact h ⟨i, t.size ▸ h1⟩

/-- What stands in a table stands at some place of it. -/
theorem Table.mem_items {t : Table α n} {a : α} : a ∈ t.items ↔ ∃ i, t.get i = a := by
  constructor
  · intro h
    obtain ⟨i, hi, rfl⟩ := List.getElem_of_mem h
    exact ⟨⟨i, t.size ▸ hi⟩, rfl⟩
  · rintro ⟨i, rfl⟩
    exact List.getElem_mem _

end Sys2Proof
end

