-- ==== Sys2Proof/Laws/Evaluation.lean ====
section
/-! SUPPORT. The laws of evaluation and of the due list: what an evaluation makes of a slot, and where a slot joins the
list. -/

namespace Sys2Proof.Machine

open Sys2Proof

/-! ### One event at an evaluation (R92, R96) -/

@[simp] theorem Event.evaluated_tag (now : Moment) (e : Event) : (e.evaluated now).tag = e.tag := by
  unfold Event.evaluated; dsimp only; split
  · rfl
  · split <;> rfl

@[simp] theorem Event.evaluated_action (now : Moment) (e : Event) : (e.evaluated now).action = e.action := by
  unfold Event.evaluated; dsimp only; split
  · rfl
  · split <;> rfl

@[simp] theorem Event.evaluated_targetLost (now : Moment) (e : Event) :
    (e.evaluated now).targetLost = e.targetLost := by
  unfold Event.evaluated; dsimp only; split
  · rfl
  · split <;> rfl

/-- A finished event is passed over. -/
theorem Event.evaluated_finished {now : Moment} {e : Event} (h : e.finished = true) : e.evaluated now = e := by
  unfold Event.evaluated; simp [h]

/-- With no occurrence counted, state, pending count and first-due second stay. -/
theorem Event.evaluated_quiet {now : Moment} {e : Event} (h : e.occurrences now = 0) :
    (e.evaluated now).state = e.state ∧ (e.evaluated now).pendingCount = e.pendingCount ∧
      (e.evaluated now).firstDue = e.firstDue ∧ (e.evaluated now).finished = e.finished := by
  unfold Event.evaluated Event.occurrences at *
  by_cases hf : e.finished = true
  · simp [hf]
  · simp only [hf, Bool.false_eq_true, if_false] at h ⊢
    simp [h]

/-- With occurrences counted, the event is DUE, its pending count raised and held at 255, its first-due second taken if it
was ARMED. -/
theorem Event.evaluated_due {now : Moment} {e : Event} (h : 0 < e.occurrences now) :
    (e.evaluated now).state = .due ∧
      (e.evaluated now).pendingCount = min Config.pendingMax (e.pendingCount + e.occurrences now) ∧
      (e.evaluated now).firstDue = (if e.state = .armed then now.second else e.firstDue) := by
  unfold Event.evaluated Event.occurrences at *
  by_cases hf : e.finished = true
  · simp [hf] at h
  · simp only [hf, Bool.false_eq_true, if_false] at h ⊢
    have : ¬ (e.schedule.count now).occ = 0 := by omega
    simp [this]

/-! ### The whole table (R92, R97, R98) -/

@[simp] theorem Engine.evaluate_get (now : Moment) (en : Engine) (i : Slot) :
    (en.evaluate now).slots.get i = (en.slots.get i).map (Event.evaluated now) := by
  simp [Engine.evaluate, Engine.slotsAfter]

@[simp] theorem Engine.evaluate_threshold (now : Moment) (en : Engine) :
    (en.evaluate now).threshold = en.threshold := rfl

@[simp] theorem Engine.evaluate_answers (now : Moment) (en : Engine) : (en.evaluate now).answers = en.answers := rfl

/-- The tend actions of an evaluation follow those in flight. -/
theorem Engine.evaluate_tends (now : Moment) (en : Engine) :
    (en.evaluate now).tends = en.tends ++ en.tendsSent now := rfl

@[simp] theorem Engine.retired_get (key : Nat) (en : Engine) (i : Slot) :
    (en.retired key).slots.get i = (en.slots.get i).map (Event.retarget key) := by
  simp [Engine.retired]

@[simp] theorem Engine.retired_dueList (key : Nat) (en : Engine) : (en.retired key).dueList = en.dueList := rfl
@[simp] theorem Engine.retired_threshold (key : Nat) (en : Engine) : (en.retired key).threshold = en.threshold := rfl
@[simp] theorem Engine.retired_tends (key : Nat) (en : Engine) : (en.retired key).tends = en.tends := rfl
@[simp] theorem Engine.retired_answers (key : Nat) (en : Engine) : (en.retired key).answers = en.answers := rfl

/-- Turning an action leaves everything but the action and the target-lost mark. -/
theorem Event.retarget_keeps (key : Nat) (e : Event) :
    (e.retarget key).tag = e.tag ∧ (e.retarget key).state = e.state ∧ (e.retarget key).schedule = e.schedule ∧
      (e.retarget key).finished = e.finished ∧ (e.retarget key).pendingCount = e.pendingCount ∧
      (e.retarget key).firstDue = e.firstDue := by
  unfold Event.retarget
  split
  · simp
  · split <;> simp

/-- After the turn no action names the key, and an action that is left is the one it was. -/
theorem Event.retarget_action {key k index : Nat} {step : Int} {e : Event}
    (h : (e.retarget key).action = .tend k index step) : k ≠ key ∧ e.action = .tend k index step := by
  unfold Event.retarget at h
  split at h
  · rename_i hn; rw [hn] at h; cases h
  · rename_i k' i' st' ha
    split at h
    · cases h
    · rename_i hne
      rw [ha] at h
      cases h
      exact ⟨hne, ha⟩

/-! ### The due list (R100) -/

theorem mem_joinDue {slots : Table (Option Event) 48} {i j : Slot} {l : List Slot} :
    j ∈ joinDue slots i l ↔ j = i ∨ j ∈ l := by
  induction l with
  | nil => simp [joinDue]
  | cons x rest ih =>
    simp only [joinDue]
    split
    · simp
    · simp only [List.mem_cons, ih]; tauto

theorem joinDue_length (slots : Table (Option Event) 48) (i : Slot) (l : List Slot) :
    (joinDue slots i l).length = l.length + 1 := by
  induction l with
  | nil => rfl
  | cons x rest ih =>
    simp only [joinDue]
    split
    · rfl
    · simp [ih]

theorem dueBefore_iff {slots : Table (Option Event) 48} {i j : Slot} :
    dueBefore slots i j = true ↔
      firstDueOf slots i < firstDueOf slots j ∨ (firstDueOf slots i = firstDueOf slots j ∧ i < j) := by
  simp [dueBefore]

theorem dueBefore_irrefl (slots : Table (Option Event) 48) (i : Slot) : dueBefore slots i i = false := by
  simp [dueBefore]

theorem dueBefore_trans {slots : Table (Option Event) 48} {i j k : Slot} (h1 : dueBefore slots i j = true)
    (h2 : dueBefore slots j k = true) : dueBefore slots i k = true := by
  rcases dueBefore_iff.1 h1 with a | ⟨a, a'⟩ <;> rcases dueBefore_iff.1 h2 with b | ⟨b, b'⟩ <;> refine dueBefore_iff.2 ?_
  · exact .inl (Nat.lt_trans a b)
  · exact .inl (b ▸ a)
  · exact .inl (a ▸ b)
  · exact .inr ⟨a.trans b, lt_trans a' b'⟩

theorem dueBefore_total {slots : Table (Option Event) 48} {i j : Slot} (h : i ≠ j) :
    dueBefore slots i j = true ∨ dueBefore slots j i = true := by
  rw [dueBefore_iff, dueBefore_iff]
  rcases Nat.lt_trichotomy (firstDueOf slots i) (firstDueOf slots j) with a | a | a
  · exact .inl (.inl a)
  · rcases lt_or_gt_of_ne h with b | b
    · exact .inl (.inr ⟨a, b⟩)
    · exact .inr (.inr ⟨a.symm, b⟩)
  · exact .inr (.inl a)

/-- The order of two slots depends on their first-due seconds alone. -/
theorem dueBefore_congr {slots slots' : Table (Option Event) 48} {i j : Slot}
    (hi : firstDueOf slots' i = firstDueOf slots i) (hj : firstDueOf slots' j = firstDueOf slots j) :
    dueBefore slots' i j = dueBefore slots i j := by
  simp [dueBefore, hi, hj]

/-- A slot that is not on the list joins it and the list stays in order. -/
theorem joinDue_sorted {slots : Table (Option Event) 48} {i : Slot} {l : List Slot}
    (h : l.Pairwise fun a b => dueBefore slots a b = true) (hi : i ∉ l) :
    (joinDue slots i l).Pairwise fun a b => dueBefore slots a b = true := by
  induction l with
  | nil => simp [joinDue]
  | cons x rest ih =>
    rw [List.pairwise_cons] at h
    simp only [joinDue]
    split
    · rename_i hb
      rw [List.pairwise_cons]
      refine ⟨?_, List.pairwise_cons.2 h⟩
      intro y hy
      rcases List.mem_cons.1 hy with rfl | hy
      · exact hb
      · exact dueBefore_trans hb (h.1 y hy)
    · rename_i hb
      rw [List.pairwise_cons]
      refine ⟨?_, ih h.2 fun hm => hi (by simp [hm])⟩
      intro y hy
      rcases mem_joinDue.1 hy with rfl | hy
      · have hne : y ≠ x := fun e => hi (by simp [e])
        rcases dueBefore_total (slots := slots) hne with h' | h'
        · exact absurd h' hb
        · exact h'
      · exact h.1 y hy

/-- The slots found newly due are those whose event falls due. -/
theorem Engine.mem_newlyDue {now : Moment} {en : Engine} {i : Slot} :
    i ∈ en.newlyDue now ↔ ∃ e, en.slots.get i = some e ∧ e.fallsDue now = true := by
  unfold Engine.newlyDue
  rw [List.mem_filter]
  constructor
  · rintro ⟨-, h⟩
    split at h
    · exact ⟨_, by assumption, h⟩
    · cases h
  · rintro ⟨e, he, hf⟩
    refine ⟨List.mem_finRange i, ?_⟩
    rw [he]
    exact hf

theorem Engine.newlyDue_nodup (now : Moment) (en : Engine) : (en.newlyDue now).Nodup :=
  (List.nodup_finRange 48).filter _

/-- The slots of the due list after an evaluation: those on it and those newly due. -/
theorem Engine.mem_evaluate_dueList {now : Moment} {en : Engine} {j : Slot} :
    j ∈ (en.evaluate now).dueList ↔ j ∈ en.dueList ∨ j ∈ en.newlyDue now := by
  have go : ∀ (slots : Table (Option Event) 48) (l acc : List Slot),
      j ∈ l.foldl (fun list i => joinDue slots i list) acc ↔ j ∈ acc ∨ j ∈ l := by
    intro slots l
    induction l with
    | nil => simp
    | cons x rest ih =>
      intro acc
      rw [List.foldl_cons, ih, mem_joinDue, List.mem_cons]
      tauto
  exact go _ _ _

end Sys2Proof.Machine
end

