-- ==== Sys2Proof/Laws/State.lean ====
section
/-! SUPPORT. The named updates of State, field by field: one lemma for each block an update leaves alone, and for what it
writes where that is one value. -/

namespace Sys2Proof.Machine

open Sys2Proof

/-! ### State.answer -/

@[simp] theorem State.answer_pending (s : State) (r : Result) (data : List Byte) :
    (s.answer r data).pending = s.pending := rfl
@[simp] theorem State.answer_calendar (s : State) (r : Result) (data : List Byte) :
    (s.answer r data).calendar = s.calendar := rfl
@[simp] theorem State.answer_engine (s : State) (r : Result) (data : List Byte) :
    (s.answer r data).engine = s.engine := rfl
@[simp] theorem State.answer_store (s : State) (r : Result) (data : List Byte) :
    (s.answer r data).store = s.store := rfl
@[simp] theorem State.answer_power (s : State) (r : Result) (data : List Byte) :
    (s.answer r data).power = s.power := rfl
@[simp] theorem State.answer_notices (s : State) (r : Result) (data : List Byte) :
    (s.answer r data).notices = s.notices := rfl
@[simp] theorem State.answer_sound (s : State) (r : Result) (data : List Byte) :
    (s.answer r data).sound = s.sound := rfl
@[simp] theorem State.answer_link (s : State) (r : Result) (data : List Byte) :
    (s.answer r data).link = s.link := rfl
@[simp] theorem State.answer_rumble (s : State) (r : Result) (data : List Byte) :
    (s.answer r data).rumble = s.rumble := rfl
@[simp] theorem State.answer_draws (s : State) (r : Result) (data : List Byte) :
    (s.answer r data).draws = s.draws := rfl

/-! ### State.holdWork -/

@[simp] theorem State.holdWork_pending (s : State) (w : Work) :
    (s.holdWork w).pending = s.pending := rfl
@[simp] theorem State.holdWork_calendar (s : State) (w : Work) :
    (s.holdWork w).calendar = s.calendar := rfl
@[simp] theorem State.holdWork_engine (s : State) (w : Work) :
    (s.holdWork w).engine = s.engine := rfl
@[simp] theorem State.holdWork_store (s : State) (w : Work) :
    (s.holdWork w).store = s.store := rfl
@[simp] theorem State.holdWork_power (s : State) (w : Work) :
    (s.holdWork w).power = s.power := rfl
@[simp] theorem State.holdWork_notices (s : State) (w : Work) :
    (s.holdWork w).notices = s.notices := rfl
@[simp] theorem State.holdWork_sound (s : State) (w : Work) :
    (s.holdWork w).sound = s.sound := rfl
@[simp] theorem State.holdWork_link (s : State) (w : Work) :
    (s.holdWork w).link = s.link := rfl
@[simp] theorem State.holdWork_rumble (s : State) (w : Work) :
    (s.holdWork w).rumble = s.rumble := rfl
@[simp] theorem State.holdWork_draws (s : State) (w : Work) :
    (s.holdWork w).draws = s.draws := rfl

/-! ### State.evaluate -/

@[simp] theorem State.evaluate_pending (s : State) :
    (s.evaluate).pending = s.pending := rfl
@[simp] theorem State.evaluate_calendar (s : State) :
    (s.evaluate).calendar = s.calendar := rfl
@[simp] theorem State.evaluate_store (s : State) :
    (s.evaluate).store = s.store := rfl
@[simp] theorem State.evaluate_power (s : State) :
    (s.evaluate).power = s.power := rfl
@[simp] theorem State.evaluate_window (s : State) :
    (s.evaluate).window = s.window := rfl
@[simp] theorem State.evaluate_notices (s : State) :
    (s.evaluate).notices = s.notices := rfl
@[simp] theorem State.evaluate_sound (s : State) :
    (s.evaluate).sound = s.sound := rfl
@[simp] theorem State.evaluate_link (s : State) :
    (s.evaluate).link = s.link := rfl
@[simp] theorem State.evaluate_rumble (s : State) :
    (s.evaluate).rumble = s.rumble := rfl
@[simp] theorem State.evaluate_draws (s : State) :
    (s.evaluate).draws = s.draws := rfl

/-! ### State.clearMain -/

@[simp] theorem State.clearMain_pending (s : State) :
    (s.clearMain).pending = s.pending := rfl
@[simp] theorem State.clearMain_calendar (s : State) :
    (s.clearMain).calendar = s.calendar := rfl
@[simp] theorem State.clearMain_engine (s : State) :
    (s.clearMain).engine = s.engine := rfl
@[simp] theorem State.clearMain_store (s : State) :
    (s.clearMain).store = s.store := rfl
@[simp] theorem State.clearMain_power (s : State) :
    (s.clearMain).power = s.power := rfl
@[simp] theorem State.clearMain_draws (s : State) :
    (s.clearMain).draws = s.draws := rfl

/-! ### State.retireRecord -/

@[simp] theorem State.retireRecord_pending (s : State) (key : Nat) :
    (s.retireRecord key).pending = s.pending := rfl
@[simp] theorem State.retireRecord_calendar (s : State) (key : Nat) :
    (s.retireRecord key).calendar = s.calendar := rfl
@[simp] theorem State.retireRecord_power (s : State) (key : Nat) :
    (s.retireRecord key).power = s.power := rfl
@[simp] theorem State.retireRecord_window (s : State) (key : Nat) :
    (s.retireRecord key).window = s.window := rfl
@[simp] theorem State.retireRecord_notices (s : State) (key : Nat) :
    (s.retireRecord key).notices = s.notices := rfl
@[simp] theorem State.retireRecord_sound (s : State) (key : Nat) :
    (s.retireRecord key).sound = s.sound := rfl
@[simp] theorem State.retireRecord_link (s : State) (key : Nat) :
    (s.retireRecord key).link = s.link := rfl
@[simp] theorem State.retireRecord_rumble (s : State) (key : Nat) :
    (s.retireRecord key).rumble = s.rumble := rfl
@[simp] theorem State.retireRecord_draws (s : State) (key : Nat) :
    (s.retireRecord key).draws = s.draws := rfl

/-! ### State.fillCreate -/

@[simp] theorem State.fillCreate_pending (s : State) (key length : Nat) (fill : Byte) (counters : List Counter) :
    (s.fillCreate key length fill counters).pending = s.pending := rfl
@[simp] theorem State.fillCreate_calendar (s : State) (key length : Nat) (fill : Byte) (counters : List Counter) :
    (s.fillCreate key length fill counters).calendar = s.calendar := rfl
@[simp] theorem State.fillCreate_engine (s : State) (key length : Nat) (fill : Byte) (counters : List Counter) :
    (s.fillCreate key length fill counters).engine = s.engine := rfl
@[simp] theorem State.fillCreate_power (s : State) (key length : Nat) (fill : Byte) (counters : List Counter) :
    (s.fillCreate key length fill counters).power = s.power := rfl
@[simp] theorem State.fillCreate_notices (s : State) (key length : Nat) (fill : Byte) (counters : List Counter) :
    (s.fillCreate key length fill counters).notices = s.notices := rfl
@[simp] theorem State.fillCreate_sound (s : State) (key length : Nat) (fill : Byte) (counters : List Counter) :
    (s.fillCreate key length fill counters).sound = s.sound := rfl
@[simp] theorem State.fillCreate_link (s : State) (key length : Nat) (fill : Byte) (counters : List Counter) :
    (s.fillCreate key length fill counters).link = s.link := rfl
@[simp] theorem State.fillCreate_rumble (s : State) (key length : Nat) (fill : Byte) (counters : List Counter) :
    (s.fillCreate key length fill counters).rumble = s.rumble := rfl
@[simp] theorem State.fillCreate_draws (s : State) (key length : Nat) (fill : Byte) (counters : List Counter) :
    (s.fillCreate key length fill counters).draws = s.draws := rfl

/-! ### State.fillOpen -/

@[simp] theorem State.fillOpen_pending (s : State) (e : Entry) (newLength : Nat) (copyIn : Bool) :
    (s.fillOpen e newLength copyIn).pending = s.pending := rfl
@[simp] theorem State.fillOpen_calendar (s : State) (e : Entry) (newLength : Nat) (copyIn : Bool) :
    (s.fillOpen e newLength copyIn).calendar = s.calendar := rfl
@[simp] theorem State.fillOpen_engine (s : State) (e : Entry) (newLength : Nat) (copyIn : Bool) :
    (s.fillOpen e newLength copyIn).engine = s.engine := rfl
@[simp] theorem State.fillOpen_power (s : State) (e : Entry) (newLength : Nat) (copyIn : Bool) :
    (s.fillOpen e newLength copyIn).power = s.power := rfl
@[simp] theorem State.fillOpen_notices (s : State) (e : Entry) (newLength : Nat) (copyIn : Bool) :
    (s.fillOpen e newLength copyIn).notices = s.notices := rfl
@[simp] theorem State.fillOpen_sound (s : State) (e : Entry) (newLength : Nat) (copyIn : Bool) :
    (s.fillOpen e newLength copyIn).sound = s.sound := rfl
@[simp] theorem State.fillOpen_link (s : State) (e : Entry) (newLength : Nat) (copyIn : Bool) :
    (s.fillOpen e newLength copyIn).link = s.link := rfl
@[simp] theorem State.fillOpen_rumble (s : State) (e : Entry) (newLength : Nat) (copyIn : Bool) :
    (s.fillOpen e newLength copyIn).rumble = s.rumble := rfl
@[simp] theorem State.fillOpen_draws (s : State) (e : Entry) (newLength : Nat) (copyIn : Bool) :
    (s.fillOpen e newLength copyIn).draws = s.draws := rfl

/-! ### State.deliverPiece -/

@[simp] theorem State.deliverPiece_pending (s : State) (e : Entry) (blocks : List Block) (offset count : Nat) (source : Byte) :
    (s.deliverPiece e blocks offset count source).pending = s.pending := rfl
@[simp] theorem State.deliverPiece_calendar (s : State) (e : Entry) (blocks : List Block) (offset count : Nat) (source : Byte) :
    (s.deliverPiece e blocks offset count source).calendar = s.calendar := rfl
@[simp] theorem State.deliverPiece_engine (s : State) (e : Entry) (blocks : List Block) (offset count : Nat) (source : Byte) :
    (s.deliverPiece e blocks offset count source).engine = s.engine := rfl
@[simp] theorem State.deliverPiece_store (s : State) (e : Entry) (blocks : List Block) (offset count : Nat) (source : Byte) :
    (s.deliverPiece e blocks offset count source).store = s.store := rfl
@[simp] theorem State.deliverPiece_power (s : State) (e : Entry) (blocks : List Block) (offset count : Nat) (source : Byte) :
    (s.deliverPiece e blocks offset count source).power = s.power := rfl
@[simp] theorem State.deliverPiece_notices (s : State) (e : Entry) (blocks : List Block) (offset count : Nat) (source : Byte) :
    (s.deliverPiece e blocks offset count source).notices = s.notices := rfl
@[simp] theorem State.deliverPiece_sound (s : State) (e : Entry) (blocks : List Block) (offset count : Nat) (source : Byte) :
    (s.deliverPiece e blocks offset count source).sound = s.sound := rfl
@[simp] theorem State.deliverPiece_link (s : State) (e : Entry) (blocks : List Block) (offset count : Nat) (source : Byte) :
    (s.deliverPiece e blocks offset count source).link = s.link := rfl
@[simp] theorem State.deliverPiece_rumble (s : State) (e : Entry) (blocks : List Block) (offset count : Nat) (source : Byte) :
    (s.deliverPiece e blocks offset count source).rumble = s.rumble := rfl
@[simp] theorem State.deliverPiece_draws (s : State) (e : Entry) (blocks : List Block) (offset count : Nat) (source : Byte) :
    (s.deliverPiece e blocks offset count source).draws = s.draws := rfl

/-! ### State.frame -/

@[simp] theorem State.frame_pending (s : State) :
    (s.frame).pending = s.pending := rfl
@[simp] theorem State.frame_calendar (s : State) :
    (s.frame).calendar = s.calendar := rfl
@[simp] theorem State.frame_engine (s : State) :
    (s.frame).engine = s.engine := rfl
@[simp] theorem State.frame_store (s : State) :
    (s.frame).store = s.store := rfl
@[simp] theorem State.frame_power (s : State) :
    (s.frame).power = s.power := rfl
@[simp] theorem State.frame_window (s : State) :
    (s.frame).window = s.window := rfl
@[simp] theorem State.frame_notices (s : State) :
    (s.frame).notices = s.notices := rfl
@[simp] theorem State.frame_rumble (s : State) :
    (s.frame).rumble = s.rumble := rfl
@[simp] theorem State.frame_draws (s : State) :
    (s.frame).draws = s.draws := rfl

/-! ### State.soundTick -/

@[simp] theorem State.soundTick_pending (s : State) :
    (s.soundTick).pending = s.pending := rfl
@[simp] theorem State.soundTick_calendar (s : State) :
    (s.soundTick).calendar = s.calendar := rfl
@[simp] theorem State.soundTick_engine (s : State) :
    (s.soundTick).engine = s.engine := rfl
@[simp] theorem State.soundTick_store (s : State) :
    (s.soundTick).store = s.store := rfl
@[simp] theorem State.soundTick_power (s : State) :
    (s.soundTick).power = s.power := rfl
@[simp] theorem State.soundTick_window (s : State) :
    (s.soundTick).window = s.window := rfl
@[simp] theorem State.soundTick_rumble (s : State) :
    (s.soundTick).rumble = s.rumble := rfl
@[simp] theorem State.soundTick_draws (s : State) :
    (s.soundTick).draws = s.draws := rfl

/-! ### State.rumbleRequest -/

@[simp] theorem State.rumbleRequest_pending (s : State) (q : RumbleRequest) :
    (s.rumbleRequest q).pending = s.pending := rfl
@[simp] theorem State.rumbleRequest_calendar (s : State) (q : RumbleRequest) :
    (s.rumbleRequest q).calendar = s.calendar := rfl
@[simp] theorem State.rumbleRequest_engine (s : State) (q : RumbleRequest) :
    (s.rumbleRequest q).engine = s.engine := rfl
@[simp] theorem State.rumbleRequest_store (s : State) (q : RumbleRequest) :
    (s.rumbleRequest q).store = s.store := rfl
@[simp] theorem State.rumbleRequest_power (s : State) (q : RumbleRequest) :
    (s.rumbleRequest q).power = s.power := rfl
@[simp] theorem State.rumbleRequest_window (s : State) (q : RumbleRequest) :
    (s.rumbleRequest q).window = s.window := rfl
@[simp] theorem State.rumbleRequest_sound (s : State) (q : RumbleRequest) :
    (s.rumbleRequest q).sound = s.sound := rfl
@[simp] theorem State.rumbleRequest_link (s : State) (q : RumbleRequest) :
    (s.rumbleRequest q).link = s.link := rfl
@[simp] theorem State.rumbleRequest_draws (s : State) (q : RumbleRequest) :
    (s.rumbleRequest q).draws = s.draws := rfl

/-! ### State.rumbleReading -/

@[simp] theorem State.rumbleReading_pending (s : State) (v : Nat) :
    (s.rumbleReading v).pending = s.pending := rfl
@[simp] theorem State.rumbleReading_calendar (s : State) (v : Nat) :
    (s.rumbleReading v).calendar = s.calendar := rfl
@[simp] theorem State.rumbleReading_engine (s : State) (v : Nat) :
    (s.rumbleReading v).engine = s.engine := rfl
@[simp] theorem State.rumbleReading_store (s : State) (v : Nat) :
    (s.rumbleReading v).store = s.store := rfl
@[simp] theorem State.rumbleReading_power (s : State) (v : Nat) :
    (s.rumbleReading v).power = s.power := rfl
@[simp] theorem State.rumbleReading_window (s : State) (v : Nat) :
    (s.rumbleReading v).window = s.window := rfl
@[simp] theorem State.rumbleReading_sound (s : State) (v : Nat) :
    (s.rumbleReading v).sound = s.sound := rfl
@[simp] theorem State.rumbleReading_link (s : State) (v : Nat) :
    (s.rumbleReading v).link = s.link := rfl
@[simp] theorem State.rumbleReading_draws (s : State) (v : Nat) :
    (s.rumbleReading v).draws = s.draws := rfl

/-! ### State.mainReset -/

@[simp] theorem State.mainReset_pending (s : State) :
    (s.mainReset).pending = s.pending := rfl
@[simp] theorem State.mainReset_calendar (s : State) :
    (s.mainReset).calendar = s.calendar := rfl
@[simp] theorem State.mainReset_draws (s : State) :
    (s.mainReset).draws = s.draws := rfl

/-! ### State.powerGoing -/

@[simp] theorem State.powerGoing_pending (s : State) :
    (s.powerGoing).pending = s.pending := rfl
@[simp] theorem State.powerGoing_calendar (s : State) :
    (s.powerGoing).calendar = s.calendar := rfl
@[simp] theorem State.powerGoing_engine (s : State) :
    (s.powerGoing).engine = s.engine := rfl
@[simp] theorem State.powerGoing_draws (s : State) :
    (s.powerGoing).draws = s.draws := rfl

/-! ### State.acknowledge -/

@[simp] theorem State.acknowledge_pending (s : State) (cleared : Byte) :
    (s.acknowledge cleared).pending = s.pending := rfl
@[simp] theorem State.acknowledge_calendar (s : State) (cleared : Byte) :
    (s.acknowledge cleared).calendar = s.calendar := rfl
@[simp] theorem State.acknowledge_engine (s : State) (cleared : Byte) :
    (s.acknowledge cleared).engine = s.engine := rfl
@[simp] theorem State.acknowledge_window (s : State) (cleared : Byte) :
    (s.acknowledge cleared).window = s.window := rfl
@[simp] theorem State.acknowledge_sound (s : State) (cleared : Byte) :
    (s.acknowledge cleared).sound = s.sound := rfl
@[simp] theorem State.acknowledge_link (s : State) (cleared : Byte) :
    (s.acknowledge cleared).link = s.link := rfl
@[simp] theorem State.acknowledge_rumble (s : State) (cleared : Byte) :
    (s.acknowledge cleared).rumble = s.rumble := rfl
@[simp] theorem State.acknowledge_draws (s : State) (cleared : Byte) :
    (s.acknowledge cleared).draws = s.draws := rfl

/-! ### State.softResetSound -/

@[simp] theorem State.softResetSound_pending (s : State) :
    (s.softResetSound).pending = s.pending := rfl
@[simp] theorem State.softResetSound_calendar (s : State) :
    (s.softResetSound).calendar = s.calendar := rfl
@[simp] theorem State.softResetSound_engine (s : State) :
    (s.softResetSound).engine = s.engine := rfl
@[simp] theorem State.softResetSound_store (s : State) :
    (s.softResetSound).store = s.store := rfl
@[simp] theorem State.softResetSound_power (s : State) :
    (s.softResetSound).power = s.power := rfl
@[simp] theorem State.softResetSound_window (s : State) :
    (s.softResetSound).window = s.window := rfl
@[simp] theorem State.softResetSound_notices (s : State) :
    (s.softResetSound).notices = s.notices := rfl
@[simp] theorem State.softResetSound_link (s : State) :
    (s.softResetSound).link = s.link := rfl
@[simp] theorem State.softResetSound_rumble (s : State) :
    (s.softResetSound).rumble = s.rumble := rfl
@[simp] theorem State.softResetSound_draws (s : State) :
    (s.softResetSound).draws = s.draws := rfl

/-! ### State.taken -/

@[simp] theorem State.taken_pending (s : State) (bytes : List Byte) :
    (s.taken bytes).pending = s.pending := rfl
@[simp] theorem State.taken_calendar (s : State) (bytes : List Byte) :
    (s.taken bytes).calendar = s.calendar := rfl
@[simp] theorem State.taken_engine (s : State) (bytes : List Byte) :
    (s.taken bytes).engine = s.engine := rfl
@[simp] theorem State.taken_store (s : State) (bytes : List Byte) :
    (s.taken bytes).store = s.store := rfl
@[simp] theorem State.taken_power (s : State) (bytes : List Byte) :
    (s.taken bytes).power = s.power := rfl
@[simp] theorem State.taken_notices (s : State) (bytes : List Byte) :
    (s.taken bytes).notices = s.notices := rfl
@[simp] theorem State.taken_sound (s : State) (bytes : List Byte) :
    (s.taken bytes).sound = s.sound := rfl
@[simp] theorem State.taken_link (s : State) (bytes : List Byte) :
    (s.taken bytes).link = s.link := rfl
@[simp] theorem State.taken_rumble (s : State) (bytes : List Byte) :
    (s.taken bytes).rumble = s.rumble := rfl
@[simp] theorem State.taken_draws (s : State) (bytes : List Byte) :
    (s.taken bytes).draws = s.draws := rfl

/-! ### State.wake -/

@[simp] theorem State.wake_pending (s : State) : s.wake.pending = s.pending := by
  unfold State.wake; split <;> rfl
@[simp] theorem State.wake_calendar (s : State) : s.wake.calendar = s.calendar := by
  unfold State.wake; split <;> rfl
@[simp] theorem State.wake_engine (s : State) : s.wake.engine = s.engine := by
  unfold State.wake; split <;> rfl
@[simp] theorem State.wake_store (s : State) : s.wake.store = s.store := by
  unfold State.wake; split <;> rfl
@[simp] theorem State.wake_window (s : State) : s.wake.window = s.window := by
  unfold State.wake; split <;> rfl
@[simp] theorem State.wake_notices (s : State) : s.wake.notices = s.notices := by
  unfold State.wake; split <;> rfl
@[simp] theorem State.wake_link (s : State) : s.wake.link = s.link := by
  unfold State.wake; split <;> rfl
@[simp] theorem State.wake_draws (s : State) : s.wake.draws = s.draws := by
  unfold State.wake; split <;> rfl

/-- In RUN a submit wakes nothing. -/
theorem State.wake_run {s : State} (h : s.power.main = .run) : s.wake = s := by
  unfold State.wake; rw [h]

/-- In DOZE a submit returns the domain to RUN, restores the saved master and clears the quiet mark. -/
theorem State.wake_doze {s : State} (h : s.power.main = .doze) :
    s.wake =
      { s with
        power := { s.power with main := .run }
        sound := { s.sound with master := s.sound.savedMaster.getD s.sound.master, savedMaster := none }
        rumble := { s.rumble with quiet := false } } := by
  unfold State.wake; rw [h]

/-- After a wake of a part that is up, the main domain is in RUN. -/
theorem State.wake_main {s : State} (h : s.power.main ≠ .off) : s.wake.power.main = .run := by
  unfold State.wake; split <;> simp_all

/-! ### What an update writes -/

@[simp] theorem State.answer_work (s : State) (r : Result) (data : List Byte) : (s.answer r data).window.work = none := rfl

@[simp] theorem State.answer_answered (s : State) (r : Result) (data : List Byte) :
    (s.answer r data).window.answered = true := rfl

@[simp] theorem State.answer_overrun (s : State) (r : Result) (data : List Byte) :
    (s.answer r data).window.overrun = s.window.overrun := rfl

@[simp] theorem State.answer_request (s : State) (r : Result) (data : List Byte) :
    (s.answer r data).window.request = s.window.request := rfl

@[simp] theorem State.answer_buffer (s : State) (r : Result) (data : List Byte) :
    (s.answer r data).window.buffer = s.window.buffer := rfl

@[simp] theorem State.holdWork_work (s : State) (w : Work) : (s.holdWork w).window.work = some w := rfl

@[simp] theorem State.taken_work (s : State) (bytes : List Byte) :
    (s.taken bytes).window.work = s.window.work := rfl

@[simp] theorem State.taken_overrun (s : State) (bytes : List Byte) : (s.taken bytes).window.overrun = false := rfl

@[simp] theorem State.taken_buffer (s : State) (bytes : List Byte) :
    (s.taken bytes).window.buffer = s.window.buffer := rfl

@[simp] theorem Store.update_memory (st : Store) (key : Nat) (f : Entry → Entry) :
    (st.update key f).memory = st.memory := rfl

@[simp] theorem Store.update_changesLost (st : Store) (key : Nat) (f : Entry → Entry) :
    (st.update key f).changesLost = st.changesLost := rfl

@[simp] theorem Store.update_keepLost (st : Store) (key : Nat) (f : Entry → Entry) :
    (st.update key f).keepLost = st.keepLost := rfl

@[simp] theorem Store.update_auditFlag (st : Store) (key : Nat) (f : Entry → Entry) :
    (st.update key f).auditFlag = st.auditFlag := rfl

@[simp] theorem Store.update_auditPosition (st : Store) (key : Nat) (f : Entry → Entry) :
    (st.update key f).auditPosition = st.auditPosition := rfl

end Sys2Proof.Machine
end

