-- ==== Sys2Proof/Laws/Link.lean ====
section
/-! SUPPORT. What a frame instant and a strobe can do: the blocks they leave alone, and the three things a frame instant can
be. -/

namespace Sys2Proof.Machine

open Sys2Proof

/-! ### The blocks a frame instant leaves alone -/


@[simp] theorem State.settleTick_pending (s : State) : (s.settleTick).pending = s.pending := by
  unfold State.settleTick; (repeat' split) <;> simp
@[simp] theorem State.settleTick_calendar (s : State) : (s.settleTick).calendar = s.calendar := by
  unfold State.settleTick; (repeat' split) <;> simp
@[simp] theorem State.settleTick_engine (s : State) : (s.settleTick).engine = s.engine := by
  unfold State.settleTick; (repeat' split) <;> simp
@[simp] theorem State.settleTick_store (s : State) : (s.settleTick).store = s.store := by
  unfold State.settleTick; (repeat' split) <;> simp
@[simp] theorem State.settleTick_power (s : State) : (s.settleTick).power = s.power := by
  unfold State.settleTick; (repeat' split) <;> simp
@[simp] theorem State.settleTick_window (s : State) : (s.settleTick).window = s.window := by
  unfold State.settleTick; (repeat' split) <;> simp
@[simp] theorem State.settleTick_rumble (s : State) : (s.settleTick).rumble = s.rumble := by
  unfold State.settleTick; (repeat' split) <;> simp
@[simp] theorem State.settleTick_draws (s : State) : (s.settleTick).draws = s.draws := by
  unfold State.settleTick; (repeat' split) <;> simp

@[simp] theorem State.frameEvent_pending (s : State) : (s.frameEvent).pending = s.pending := by
  unfold State.frameEvent; (repeat' split) <;> simp
@[simp] theorem State.frameEvent_calendar (s : State) : (s.frameEvent).calendar = s.calendar := by
  unfold State.frameEvent; (repeat' split) <;> simp
@[simp] theorem State.frameEvent_engine (s : State) : (s.frameEvent).engine = s.engine := by
  unfold State.frameEvent; (repeat' split) <;> simp
@[simp] theorem State.frameEvent_store (s : State) : (s.frameEvent).store = s.store := by
  unfold State.frameEvent; (repeat' split) <;> simp
@[simp] theorem State.frameEvent_power (s : State) : (s.frameEvent).power = s.power := by
  unfold State.frameEvent; (repeat' split) <;> simp
@[simp] theorem State.frameEvent_window (s : State) : (s.frameEvent).window = s.window := by
  unfold State.frameEvent; (repeat' split) <;> simp
@[simp] theorem State.frameEvent_rumble (s : State) : (s.frameEvent).rumble = s.rumble := by
  unfold State.frameEvent; (repeat' split) <;> simp
@[simp] theorem State.frameEvent_draws (s : State) : (s.frameEvent).draws = s.draws := by
  unfold State.frameEvent; (repeat' split) <;> simp

@[simp] theorem State.frameInstant_pending (s : State) : (s.frameInstant).pending = s.pending := by
  unfold State.frameInstant; (repeat' split) <;> simp
@[simp] theorem State.frameInstant_calendar (s : State) : (s.frameInstant).calendar = s.calendar := by
  unfold State.frameInstant; (repeat' split) <;> simp
@[simp] theorem State.frameInstant_engine (s : State) : (s.frameInstant).engine = s.engine := by
  unfold State.frameInstant; (repeat' split) <;> simp
@[simp] theorem State.frameInstant_store (s : State) : (s.frameInstant).store = s.store := by
  unfold State.frameInstant; (repeat' split) <;> simp
@[simp] theorem State.frameInstant_power (s : State) : (s.frameInstant).power = s.power := by
  unfold State.frameInstant; (repeat' split) <;> simp
@[simp] theorem State.frameInstant_window (s : State) : (s.frameInstant).window = s.window := by
  unfold State.frameInstant; (repeat' split) <;> simp
@[simp] theorem State.frameInstant_rumble (s : State) : (s.frameInstant).rumble = s.rumble := by
  unfold State.frameInstant; (repeat' split) <;> simp
@[simp] theorem State.frameInstant_draws (s : State) : (s.frameInstant).draws = s.draws := by
  unfold State.frameInstant; (repeat' split) <;> simp

@[simp] theorem State.ownInstant_pending (s : State) (due : Instant) : (s.ownInstant due).pending = s.pending := by
  simp [State.ownInstant]
@[simp] theorem State.ownInstant_calendar (s : State) (due : Instant) : (s.ownInstant due).calendar = s.calendar := by
  simp [State.ownInstant]
@[simp] theorem State.ownInstant_engine (s : State) (due : Instant) : (s.ownInstant due).engine = s.engine := by
  simp [State.ownInstant]
@[simp] theorem State.ownInstant_store (s : State) (due : Instant) : (s.ownInstant due).store = s.store := by
  simp [State.ownInstant]
@[simp] theorem State.ownInstant_power (s : State) (due : Instant) : (s.ownInstant due).power = s.power := by
  simp [State.ownInstant]
@[simp] theorem State.ownInstant_window (s : State) (due : Instant) : (s.ownInstant due).window = s.window := by
  simp [State.ownInstant]
@[simp] theorem State.ownInstant_rumble (s : State) (due : Instant) : (s.ownInstant due).rumble = s.rumble := by
  simp [State.ownInstant]
@[simp] theorem State.ownInstant_draws (s : State) (due : Instant) : (s.ownInstant due).draws = s.draws := by
  simp [State.ownInstant]

@[simp] theorem State.toOwnTiming_pending (s : State) (now : Instant) (after : Link) : (s.toOwnTiming now after).pending = s.pending := by
  unfold State.toOwnTiming; (repeat' split) <;> simp
@[simp] theorem State.toOwnTiming_calendar (s : State) (now : Instant) (after : Link) : (s.toOwnTiming now after).calendar = s.calendar := by
  unfold State.toOwnTiming; (repeat' split) <;> simp
@[simp] theorem State.toOwnTiming_engine (s : State) (now : Instant) (after : Link) : (s.toOwnTiming now after).engine = s.engine := by
  unfold State.toOwnTiming; (repeat' split) <;> simp
@[simp] theorem State.toOwnTiming_store (s : State) (now : Instant) (after : Link) : (s.toOwnTiming now after).store = s.store := by
  unfold State.toOwnTiming; (repeat' split) <;> simp
@[simp] theorem State.toOwnTiming_power (s : State) (now : Instant) (after : Link) : (s.toOwnTiming now after).power = s.power := by
  unfold State.toOwnTiming; (repeat' split) <;> simp
@[simp] theorem State.toOwnTiming_window (s : State) (now : Instant) (after : Link) : (s.toOwnTiming now after).window = s.window := by
  unfold State.toOwnTiming; (repeat' split) <;> simp
@[simp] theorem State.toOwnTiming_rumble (s : State) (now : Instant) (after : Link) : (s.toOwnTiming now after).rumble = s.rumble := by
  unfold State.toOwnTiming; (repeat' split) <;> simp
@[simp] theorem State.toOwnTiming_draws (s : State) (now : Instant) (after : Link) : (s.toOwnTiming now after).draws = s.draws := by
  unfold State.toOwnTiming; (repeat' split) <;> simp

@[simp] theorem State.enterSlave_pending (s : State) (arrival : Instant) : (s.enterSlave arrival).pending = s.pending := by
  simp only [State.enterSlave]; (repeat' split) <;> simp
@[simp] theorem State.enterSlave_calendar (s : State) (arrival : Instant) : (s.enterSlave arrival).calendar = s.calendar := by
  simp only [State.enterSlave]; (repeat' split) <;> simp
@[simp] theorem State.enterSlave_engine (s : State) (arrival : Instant) : (s.enterSlave arrival).engine = s.engine := by
  simp only [State.enterSlave]; (repeat' split) <;> simp
@[simp] theorem State.enterSlave_store (s : State) (arrival : Instant) : (s.enterSlave arrival).store = s.store := by
  simp only [State.enterSlave]; (repeat' split) <;> simp
@[simp] theorem State.enterSlave_power (s : State) (arrival : Instant) : (s.enterSlave arrival).power = s.power := by
  simp only [State.enterSlave]; (repeat' split) <;> simp
@[simp] theorem State.enterSlave_window (s : State) (arrival : Instant) : (s.enterSlave arrival).window = s.window := by
  simp only [State.enterSlave]; (repeat' split) <;> simp
@[simp] theorem State.enterSlave_rumble (s : State) (arrival : Instant) : (s.enterSlave arrival).rumble = s.rumble := by
  simp only [State.enterSlave]; (repeat' split) <;> simp
@[simp] theorem State.enterSlave_draws (s : State) (arrival : Instant) : (s.enterSlave arrival).draws = s.draws := by
  simp only [State.enterSlave]; (repeat' split) <;> simp

@[simp] theorem State.strobeAlongside_pending (s : State) (elapsed : Nat) (arrival : Instant) : (s.strobeAlongside elapsed arrival).pending = s.pending := by
  unfold State.strobeAlongside; (repeat' split) <;> simp
@[simp] theorem State.strobeAlongside_calendar (s : State) (elapsed : Nat) (arrival : Instant) : (s.strobeAlongside elapsed arrival).calendar = s.calendar := by
  unfold State.strobeAlongside; (repeat' split) <;> simp
@[simp] theorem State.strobeAlongside_engine (s : State) (elapsed : Nat) (arrival : Instant) : (s.strobeAlongside elapsed arrival).engine = s.engine := by
  unfold State.strobeAlongside; (repeat' split) <;> simp
@[simp] theorem State.strobeAlongside_store (s : State) (elapsed : Nat) (arrival : Instant) : (s.strobeAlongside elapsed arrival).store = s.store := by
  unfold State.strobeAlongside; (repeat' split) <;> simp
@[simp] theorem State.strobeAlongside_power (s : State) (elapsed : Nat) (arrival : Instant) : (s.strobeAlongside elapsed arrival).power = s.power := by
  unfold State.strobeAlongside; (repeat' split) <;> simp
@[simp] theorem State.strobeAlongside_window (s : State) (elapsed : Nat) (arrival : Instant) : (s.strobeAlongside elapsed arrival).window = s.window := by
  unfold State.strobeAlongside; (repeat' split) <;> simp
@[simp] theorem State.strobeAlongside_rumble (s : State) (elapsed : Nat) (arrival : Instant) : (s.strobeAlongside elapsed arrival).rumble = s.rumble := by
  unfold State.strobeAlongside; (repeat' split) <;> simp
@[simp] theorem State.strobeAlongside_draws (s : State) (elapsed : Nat) (arrival : Instant) : (s.strobeAlongside elapsed arrival).draws = s.draws := by
  unfold State.strobeAlongside; (repeat' split) <;> simp

@[simp] theorem State.strobeInSlave_pending (s : State) (elapsed : Nat) (arrival : Instant) : (s.strobeInSlave elapsed arrival).pending = s.pending := by
  unfold State.strobeInSlave; (repeat' split) <;> simp
@[simp] theorem State.strobeInSlave_calendar (s : State) (elapsed : Nat) (arrival : Instant) : (s.strobeInSlave elapsed arrival).calendar = s.calendar := by
  unfold State.strobeInSlave; (repeat' split) <;> simp
@[simp] theorem State.strobeInSlave_engine (s : State) (elapsed : Nat) (arrival : Instant) : (s.strobeInSlave elapsed arrival).engine = s.engine := by
  unfold State.strobeInSlave; (repeat' split) <;> simp
@[simp] theorem State.strobeInSlave_store (s : State) (elapsed : Nat) (arrival : Instant) : (s.strobeInSlave elapsed arrival).store = s.store := by
  unfold State.strobeInSlave; (repeat' split) <;> simp
@[simp] theorem State.strobeInSlave_power (s : State) (elapsed : Nat) (arrival : Instant) : (s.strobeInSlave elapsed arrival).power = s.power := by
  unfold State.strobeInSlave; (repeat' split) <;> simp
@[simp] theorem State.strobeInSlave_window (s : State) (elapsed : Nat) (arrival : Instant) : (s.strobeInSlave elapsed arrival).window = s.window := by
  unfold State.strobeInSlave; (repeat' split) <;> simp
@[simp] theorem State.strobeInSlave_rumble (s : State) (elapsed : Nat) (arrival : Instant) : (s.strobeInSlave elapsed arrival).rumble = s.rumble := by
  unfold State.strobeInSlave; (repeat' split) <;> simp
@[simp] theorem State.strobeInSlave_draws (s : State) (elapsed : Nat) (arrival : Instant) : (s.strobeInSlave elapsed arrival).draws = s.draws := by
  unfold State.strobeInSlave; (repeat' split) <;> simp

@[simp] theorem State.setLink_pending (s : State) (mode : LinkMode) (format : SlotFormat) (offset : Fin 4) (now : Instant) :
    (s.setLink mode format offset now).pending = s.pending := by
  simp only [State.setLink]; (repeat' split) <;> simp
@[simp] theorem State.setLink_calendar (s : State) (mode : LinkMode) (format : SlotFormat) (offset : Fin 4) (now : Instant) :
    (s.setLink mode format offset now).calendar = s.calendar := by
  simp only [State.setLink]; (repeat' split) <;> simp
@[simp] theorem State.setLink_engine (s : State) (mode : LinkMode) (format : SlotFormat) (offset : Fin 4) (now : Instant) :
    (s.setLink mode format offset now).engine = s.engine := by
  simp only [State.setLink]; (repeat' split) <;> simp
@[simp] theorem State.setLink_store (s : State) (mode : LinkMode) (format : SlotFormat) (offset : Fin 4) (now : Instant) :
    (s.setLink mode format offset now).store = s.store := by
  simp only [State.setLink]; (repeat' split) <;> simp
@[simp] theorem State.setLink_power (s : State) (mode : LinkMode) (format : SlotFormat) (offset : Fin 4) (now : Instant) :
    (s.setLink mode format offset now).power = s.power := by
  simp only [State.setLink]; (repeat' split) <;> simp
@[simp] theorem State.setLink_window (s : State) (mode : LinkMode) (format : SlotFormat) (offset : Fin 4) (now : Instant) :
    (s.setLink mode format offset now).window = s.window := by
  simp only [State.setLink]; (repeat' split) <;> simp
@[simp] theorem State.setLink_rumble (s : State) (mode : LinkMode) (format : SlotFormat) (offset : Fin 4) (now : Instant) :
    (s.setLink mode format offset now).rumble = s.rumble := by
  simp only [State.setLink]; (repeat' split) <;> simp
@[simp] theorem State.setLink_draws (s : State) (mode : LinkMode) (format : SlotFormat) (offset : Fin 4) (now : Instant) :
    (s.setLink mode format offset now).draws = s.draws := by
  simp only [State.setLink]; (repeat' split) <;> simp


/-! ### What a frame instant is (R143, R153) -/

theorem State.frameInstant_doze {s : State} (h : s.power.main = .doze) :
    s.frameInstant = { s with link := s.link.send restSlots } := by
  unfold State.frameInstant; rw [h]

theorem State.frameInstant_off {s : State} (h : s.power.main = .off) : s.frameInstant = s := by
  unfold State.frameInstant; rw [h]

theorem State.frameInstant_run {s : State} (h : s.power.main = .run) : s.frameInstant = s.settleTick.frameEvent := by
  unfold State.frameInstant; rw [h]

/-- With no sound tick handed on and the tick phase short of its last, a frame instant in RUN counts and sends one
frame. -/
theorem State.frameInstant_plain {s : State} (h : s.power.main = .run) (ht : s.sound.tickHanded = false)
    (hp : s.link.tickPhase + 1 < 128) :
    s.frameInstant = { s with link := { s.link with tickPhase := s.link.tickPhase + 1 } }.frame := by
  rw [State.frameInstant_run h]
  simp [State.settleTick, ht, State.frameEvent, hp, Link.count]

end Sys2Proof.Machine
end

