-- ==== Sys2Proof/Laws/Submit.lean ====
section
/-! SUPPORT. What a submit can do, and what the requests' shared operations can answer: one lemma for each, which a proof
cites instead of unfolding the operation. -/

namespace Sys2Proof.Machine

open Sys2Proof

/-! ### Taking a submit -/

theorem State.windowLive_iff (s : State) : s.windowLive = true ↔ s.power.main ≠ .off ∧ s.power.resetHeld = false := by
  simp [State.windowLive, State.mainUp]

theorem Window.busy_iff (w : Window) : w.busy = true ↔ w.work ≠ none := by
  simp [Window.busy, Option.isSome_iff_ne_none]

/-- A submit to a window that takes no writes does nothing. -/
theorem submit_dead {s : State} (h : s.windowLive = false) (bytes : List Byte) (act : Bool → State → State) :
    submit bytes act s = s := by
  unfold submit; simp [h]

/-- A submit to a BUSY window sets the overrun mark and does nothing else. -/
theorem submit_busy {s : State} (h : s.windowLive = true) (hb : s.window.work ≠ none) (bytes : List Byte)
    (act : Bool → State → State) :
    submit bytes act s = { s with window := { s.window with overrun := true } } := by
  have : s.window.busy = true := (Window.busy_iff _).2 hb
  unfold submit; simp [h, this]

/-- A submit that is taken: the part wakes, the submit is taken, and the owning block acts. -/
theorem submit_taken {s : State} (h : s.Accepts) (bytes : List Byte) (act : Bool → State → State) :
    submit bytes act s = act (s.power.main == .doze) (s.wake.taken bytes) := by
  obtain ⟨hm, hr, hw⟩ := h
  have hl : s.windowLive = true := (State.windowLive_iff s).2 ⟨hm, hr⟩
  have hb : s.window.busy = false := by simp [Window.busy, hw]
  unfold submit; simp [hl, hb]

/-- A submit taken in RUN: the window alone changes before the owning block acts. -/
theorem submit_run {s : State} (hm : s.power.main = .run) (hr : s.power.resetHeld = false) (hw : s.window.work = none)
    (bytes : List Byte) (act : Bool → State → State) :
    submit bytes act s = act false (s.taken bytes) := by
  rw [submit_taken ⟨by simp [hm], hr, hw⟩, State.wake_run hm, hm]
  rfl

/-- Everything a submit can do: whatever holds of the state as it stands, of it with the overrun mark set, and of what the
owning block makes of a submit that is taken, holds after the submit. -/
theorem submit_cases {P : State → Prop} {s : State} {bytes : List Byte} {act : Bool → State → State}
    (hs : P s) (hbusy : P { s with window := { s.window with overrun := true } })
    (hact : s.Accepts → ∀ woke, P (act woke (s.wake.taken bytes))) : P (submit bytes act s) := by
  by_cases hl : s.windowLive = true
  · by_cases hw : s.window.work = none
    · have ha : s.Accepts := ⟨((State.windowLive_iff s).1 hl).1, ((State.windowLive_iff s).1 hl).2, hw⟩
      rw [submit_taken ha]
      exact hact ha _
    · rw [submit_busy hl hw]
      exact hbusy
  · rw [submit_dead (by simpa using hl)]
    exact hs

/-! ### The first check that fails -/

@[simp] theorem firstFailing_nil : firstFailing [] = none := rfl

@[simp] theorem firstFailing_cons (fails : Bool) (r : Result) (rest : List (Bool × Result)) :
    firstFailing ((fails, r) :: rest) = if fails then some r else firstFailing rest := rfl

/-- A table of checks passes exactly when none of its conditions holds. -/
theorem firstFailing_none {checks : List (Bool × Result)} :
    firstFailing checks = none ↔ ∀ c ∈ checks, c.1 = false := by
  induction checks with
  | nil => simp
  | cons c rest ih =>
    obtain ⟨b, r⟩ := c
    cases b <;> simp [ih]

/-- The result answered is that of a condition that holds, all before it holding not. -/
theorem firstFailing_some {checks : List (Bool × Result)} {r : Result} (h : firstFailing checks = some r) :
    ∃ before after, checks = before ++ (true, r) :: after ∧ ∀ c ∈ before, c.1 = false := by
  induction checks with
  | nil => simp at h
  | cons c rest ih =>
    obtain ⟨b, q⟩ := c
    cases b with
    | true =>
      simp at h
      subst h
      exact ⟨[], rest, rfl, by simp⟩
    | false =>
      simp at h
      obtain ⟨before, after, rfl, hb⟩ := ih h
      exact ⟨(false, q) :: before, after, rfl, by simpa using hb⟩

/-! ### Requests that name a record, a counter or a slot -/

/-- Everything a request on a record can do before it acts: RANGE, NO-RECORD, or the act on the entry found. -/
theorem State.onRecord_cases {P : State → Prop} {s : State} {bad : Bool} {key : Half} {act : Entry → State}
    (hrange : bad = true → P (s.answer .range []))
    (hnone : bad = false → s.store.find key.toNat = none → P (s.answer .noRecord []))
    (hact : bad = false → ∀ e, s.store.find key.toNat = some e → P (act e)) : P (s.onRecord bad key act) := by
  unfold State.onRecord
  cases bad with
  | true => exact hrange rfl
  | false =>
    simp only [Bool.false_eq_true, if_false]
    split
    · exact hnone rfl (by assumption)
    · exact hact rfl _ (by assumption)

theorem State.onRecord_bad (s : State) (key : Half) (act : Entry → State) :
    s.onRecord true key act = s.answer .range [] := rfl

theorem State.onRecord_none {s : State} {key : Half} (h : s.store.find key.toNat = none) (act : Entry → State) :
    s.onRecord false key act = s.answer .noRecord [] := by
  unfold State.onRecord; simp [h]

theorem State.onRecord_some {s : State} {key : Half} {e : Entry} (h : s.store.find key.toNat = some e)
    (act : Entry → State) : s.onRecord false key act = act e := by
  unfold State.onRecord; simp [h]

/-- Everything a counter request can do: RANGE, NO-RECORD, NO-COUNTER, or one counter replaced and answered. -/
theorem State.onCounter_cases {P : State → Prop} {s : State} {bad : Bool} {key : Half} {index : Byte}
    {act : Counter → Result × Counter × Bool}
    (hrange : bad = true → P (s.answer .range []))
    (hnone : bad = false → s.store.find key.toNat = none → P (s.answer .noRecord []))
    (hindex : bad = false → ∀ e, s.store.find key.toNat = some e → e.counters[index.toNat]? = none →
      P (s.answer .noCounter [nat1 e.counters.length]))
    (hact : bad = false → ∀ e c, s.store.find key.toNat = some e → e.counters[index.toNat]? = some c →
      P ({ s with store := s.store.update key.toNat fun e => e.setCounter index.toNat (act c).2.1 }.answer (act c).1
        (counterData key index e.counters.length c (act c).2.1 (act c).2.2))) :
    P (s.onCounter bad key index act) := by
  unfold State.onCounter
  refine State.onRecord_cases hrange hnone fun hb e he => ?_
  split
  · exact hindex hb e he (by assumption)
  · exact hact hb e _ he (by assumption)

theorem State.onCounter_some {s : State} {key : Half} {index : Byte} {e : Entry} {c : Counter}
    (he : s.store.find key.toNat = some e) (hc : e.counters[index.toNat]? = some c)
    (act : Counter → Result × Counter × Bool) :
    s.onCounter false key index act =
      { s with store := s.store.update key.toNat fun e => e.setCounter index.toNat (act c).2.1 }.answer (act c).1
        (counterData key index e.counters.length c (act c).2.1 (act c).2.2) := by
  unfold State.onCounter
  rw [State.onRecord_some he]
  simp [hc]

/-- Everything a request on a slot can do: RANGE, NO-EVENT, or the act on the event found. -/
theorem State.onSlot_cases {P : State → Prop} {s : State} {bad : Bool} {slot : Byte} {act : Slot → Event → State}
    (hrange : P (s.answer .range [])) (hnone : P (s.answer .noEvent []))
    (hact : ∀ (h : slot.toNat < 48) (e : Event), bad = false → s.engine.slots.get ⟨slot.toNat, h⟩ = some e →
      P (act ⟨slot.toNat, h⟩ e)) : P (s.onSlot bad slot act) := by
  unfold State.onSlot
  split
  · cases bad with
    | true => exact hrange
    | false =>
      simp only [Bool.false_eq_true, if_false]
      split
      · exact hnone
      · exact hact _ _ rfl (by assumption)
  · exact hrange

theorem State.onSlot_some {s : State} {slot : Byte} {h : slot.toNat < 48} {e : Event}
    (he : s.engine.slots.get ⟨slot.toNat, h⟩ = some e) (act : Slot → Event → State) :
    s.onSlot false slot act = act ⟨slot.toNat, h⟩ e := by
  unfold State.onSlot
  simp [h, he]

/-! ### The answer as placed -/

theorem overlay_zero {old bytes : List Byte} (h : bytes.length ≤ old.length) :
    overlay old 0 bytes = bytes ++ old.drop bytes.length := by
  induction old generalizing bytes with
  | nil =>
    simp at h
    subst h
    rfl
  | cons o rest ih =>
    cases bytes with
    | nil => rfl
    | cons b bs => simp only [overlay, List.length_cons, List.drop_succ_cons, List.cons_append]; rw [ih (by simpa using h)]

/-- The answer area after an answer: the code, the data, and zeros. -/
theorem State.answer_area (s : State) (r : Result) {data : List Byte} (h : data.length ≤ 31) :
    (s.answer r data).window.answer.items = r.code :: data ++ List.replicate (32 - (data.length + 1)) 0 := by
  show overlay (List.replicate 32 0) 0 (r.code :: data) = _
  rw [overlay_zero (by rw [List.length_replicate, List.length_cons]; omega), List.drop_replicate, List.length_cons]

/-- The transfer buffer after a fill: the bytes, and zeros. -/
theorem Window.fillBuffer_items (w : Window) {bytes : List Byte} (h : bytes.length ≤ 64) :
    (w.fillBuffer bytes).buffer.items = bytes ++ List.replicate (64 - bytes.length) 0 := by
  show overlay (List.replicate 64 0) 0 bytes = _
  rw [overlay_zero (by rw [List.length_replicate]; exact h), List.drop_replicate]

end Sys2Proof.Machine
end

