-- ==== Sys2Proof/Laws/Frame.lean ====
section
/-! SUPPORT. Which commands can change a block, and for each block one law: every other command leaves it as it was, or, for
the blocks a wake from DOZE touches, as the wake leaves it. -/

namespace Sys2Proof.Machine

open Sys2Proof

set_option linter.unusedSimpArgs false
set_option linter.unusedTactic false

@[simp] theorem State.softReset_pending (s : State) (now : Instant) : (s.softReset now).pending = s.pending := by
  simp only [State.softReset, State.softResetSoundAndLink, State.softResetLink]; (repeat' split) <;> simp
@[simp] theorem State.softReset_calendar (s : State) (now : Instant) : (s.softReset now).calendar = s.calendar := by
  simp only [State.softReset, State.softResetSoundAndLink, State.softResetLink]; (repeat' split) <;> simp
@[simp] theorem State.softReset_engine (s : State) (now : Instant) : (s.softReset now).engine = s.engine := by
  simp only [State.softReset, State.softResetSoundAndLink, State.softResetLink]; (repeat' split) <;> simp
@[simp] theorem State.softReset_store (s : State) (now : Instant) : (s.softReset now).store = s.store := by
  simp only [State.softReset, State.softResetSoundAndLink, State.softResetLink]; (repeat' split) <;> simp
@[simp] theorem State.softReset_power (s : State) (now : Instant) : (s.softReset now).power = s.power := by
  simp only [State.softReset, State.softResetSoundAndLink, State.softResetLink]; (repeat' split) <;> simp
@[simp] theorem State.softReset_window (s : State) (now : Instant) : (s.softReset now).window = s.window := by
  simp only [State.softReset, State.softResetSoundAndLink, State.softResetLink]; (repeat' split) <;> simp

/-- The commands that can change the calendar. -/
def Instr.changesCalendar : Instr → Bool
  | .setWall .. => true
  | .setDayTurn _ => true
  | .secondEvent => true
  | .minuteEvent _ => true
  | .wakeEvent _ => true
  | .cellReset => true
  | _ => false

set_option maxHeartbeats 2000000 in
/-- Every other command leaves the calendar alone. -/
theorem exec_keeps_calendar {c : Instr} {s t : State} (hc : Instr.changesCalendar c = false) (h : exec c s = .next t) :
    t.calendar = s.calendar := by
  cases c <;> first | (exact absurd (show true = false from hc) (by decide)) | skip
  all_goals cases h
  all_goals try rfl

  all_goals try (refine submit_cases (P := fun t => t.calendar = s.calendar) rfl rfl fun _ _ => ?_)
  all_goals try simp only [State.onRecord, State.onSlot, State.onCounter, State.armRequest, State.arm, State.armAnswer,
    State.takeReading, State.readingUp, State.readingOff]
  all_goals repeat' split
  all_goals try (refine submit_cases (P := fun t => t.calendar = s.calendar) rfl rfl fun _ _ => ?_)
  all_goals try simp

/-- The commands that can change the event engine. -/
def Instr.changesEngine : Instr → Bool
  | .retire _ => true
  | .tendAction => true
  | .tendAnswer => true
  | .setWall .. => true
  | .setDayTurn _ => true
  | .secondEvent => true
  | .armElapsed .. => true
  | .armDaily .. => true
  | .armWall .. => true
  | .cancelEvent _ => true
  | .ackDue .. => true
  | .setDueThreshold _ => true
  | .minuteEvent _ => true
  | .supplyReading _ => true
  | .wakeEvent _ => true
  | .consoleReset => true
  | .cellReset => true
  | _ => false

set_option maxHeartbeats 2000000 in
/-- Every other command leaves the event engine alone. -/
theorem exec_keeps_engine {c : Instr} {s t : State} (hc : Instr.changesEngine c = false) (h : exec c s = .next t) :
    t.engine = s.engine := by
  cases c <;> first | (exact absurd (show true = false from hc) (by decide)) | skip
  all_goals cases h
  all_goals try rfl

  all_goals try (refine submit_cases (P := fun t => t.engine = s.engine) rfl rfl fun _ _ => ?_)
  all_goals try simp only [State.onRecord, State.onSlot, State.onCounter, State.armRequest, State.arm, State.armAnswer,
    State.takeReading, State.readingUp, State.readingOff]
  all_goals repeat' split
  all_goals try (refine submit_cases (P := fun t => t.engine = s.engine) rfl rfl fun _ _ => ?_)
  all_goals try simp

/-- The commands that can change the record store. -/
def Instr.changesStore : Instr → Bool
  | .create .. => true
  | .entryStep => true
  | .retire _ => true
  | .openChange .. => true
  | .openChangeEntry => true
  | .writePiece .. => true
  | .verification => true
  | .swapStage => true
  | .abandonChange _ => true
  | .auditStep => true
  | .readCounter .. => true
  | .adjustCounter .. => true
  | .setCounter .. => true
  | .swapCounter .. => true
  | .setBounds .. => true
  | .tendAction => true
  | .ackNotice _ => true
  | .minuteEvent _ => true
  | .supplyReading _ => true
  | .wakeEvent _ => true
  | .consoleReset => true
  | .retentionDoubtful _ => true
  | .cellReset => true
  | _ => false

set_option maxHeartbeats 2000000 in
/-- Every other command leaves the record store alone. -/
theorem exec_keeps_store {c : Instr} {s t : State} (hc : Instr.changesStore c = false) (h : exec c s = .next t) :
    t.store = s.store := by
  cases c <;> first | (exact absurd (show true = false from hc) (by decide)) | skip
  all_goals cases h
  all_goals try rfl

  all_goals try (refine submit_cases (P := fun t => t.store = s.store) rfl rfl fun _ _ => ?_)
  all_goals try simp only [State.onRecord, State.onSlot, State.onCounter, State.armRequest, State.arm, State.armAnswer,
    State.takeReading, State.readingUp, State.readingOff]
  all_goals repeat' split
  all_goals try (refine submit_cases (P := fun t => t.store = s.store) rfl rfl fun _ _ => ?_)
  all_goals try simp

/-- The commands that can change the audio link. -/
def Instr.changesLink : Instr → Bool
  | .softReset _ => true
  | .setLink .. => true
  | .readLink => true
  | .frameInstant => true
  | .fsiStrobe _ => true
  | .substitution => true
  | .soundTick => true
  | .rumbleUnit => true
  | .minuteEvent _ => true
  | .supplyReading _ => true
  | .wakeEvent _ => true
  | .consoleReset => true
  | .keepDomainStop => true
  | .cellReset => true
  | _ => false

set_option maxHeartbeats 2000000 in
/-- Every other command leaves the audio link alone. -/
theorem exec_keeps_link {c : Instr} {s t : State} (hc : Instr.changesLink c = false) (h : exec c s = .next t) :
    t.link = s.link := by
  cases c <;> first | (exact absurd (show true = false from hc) (by decide)) | skip
  all_goals cases h
  all_goals try rfl

  all_goals try (refine submit_cases (P := fun t => t.link = s.link) rfl rfl fun _ _ => ?_)
  all_goals try simp only [State.onRecord, State.onSlot, State.onCounter, State.armRequest, State.arm, State.armAnswer,
    State.takeReading, State.readingUp, State.readingOff]
  all_goals repeat' split
  all_goals try (refine submit_cases (P := fun t => t.link = s.link) rfl rfl fun _ _ => ?_)
  all_goals try simp

/-- The commands that can change the notice unit. -/
def Instr.changesNotices : Instr → Bool
  | .ackNotice _ => true
  | .setNoticeMask _ => true
  | .auditStep => true
  | .softReset _ => true
  | .frameInstant => true
  | .fsiStrobe _ => true
  | .substitution => true
  | .setLink .. => true
  | .soundTick => true
  | .loadPattern .. => true
  | .playPattern .. => true
  | .cue => true
  | .rumbleUnit => true
  | .minuteEvent _ => true
  | .supplyReading _ => true
  | .wakeEvent _ => true
  | .consoleReset => true
  | .keepDomainStop => true
  | .cellReset => true
  | _ => false

set_option maxHeartbeats 2000000 in
/-- Every other command leaves the notice unit alone. -/
theorem exec_keeps_notices {c : Instr} {s t : State} (hc : Instr.changesNotices c = false) (h : exec c s = .next t) :
    t.notices = s.notices := by
  cases c <;> first | (exact absurd (show true = false from hc) (by decide)) | skip
  all_goals cases h
  all_goals try rfl

  all_goals try (refine submit_cases (P := fun t => t.notices = s.notices) rfl rfl fun _ _ => ?_)
  all_goals try simp only [State.onRecord, State.onSlot, State.onCounter, State.armRequest, State.arm, State.armAnswer,
    State.takeReading, State.readingUp, State.readingOff]
  all_goals repeat' split
  all_goals try (refine submit_cases (P := fun t => t.notices = s.notices) rfl rfl fun _ _ => ?_)
  all_goals try simp

/-- The commands that can change the sound engine. -/
def Instr.changesSound : Instr → Bool
  | .softReset _ => true
  | .setLink .. => true
  | .soundTick => true
  | .frameInstant => true
  | .fsiStrobe _ => true
  | .substitution => true
  | .cue => true
  | .quiesce => true
  | .loadWave _ => true
  | .setVoice .. => true
  | .queueNotes .. => true
  | .startVoices _ => true
  | .holdVoices _ => true
  | .releaseVoices _ => true
  | .stopVoices _ => true
  | .setMaster _ => true
  | .readVoices => true
  | .readMarkers => true
  | .minuteEvent _ => true
  | .supplyReading _ => true
  | .wakeEvent _ => true
  | .consoleReset => true
  | .keepDomainStop => true
  | .cellReset => true
  | _ => false

set_option maxHeartbeats 2000000 in
/-- Every other command leaves the sound engine as it was, or as the wake from DOZE leaves it. -/
theorem exec_keeps_sound {c : Instr} {s t : State} (hc : Instr.changesSound c = false) (h : exec c s = .next t) :
    t.sound = s.sound ∨ t.sound = s.wake.sound := by
  cases c <;> first | (exact absurd (show true = false from hc) (by decide)) | skip
  all_goals cases h
  all_goals try exact Or.inl rfl

  all_goals try (refine submit_cases (P := fun t => t.sound = s.sound ∨ t.sound = s.wake.sound) (.inl rfl) (.inl rfl) fun _ _ => ?_)
  all_goals try simp only [State.onRecord, State.onSlot, State.onCounter, State.armRequest, State.arm, State.armAnswer,
    State.takeReading, State.readingUp, State.readingOff]
  all_goals repeat' split
  all_goals try (refine submit_cases (P := fun t => t.sound = s.sound ∨ t.sound = s.wake.sound) (.inl rfl) (.inl rfl) fun _ _ => ?_)
  all_goals try simp

/-- The commands that can change the rumble driver. -/
def Instr.changesRumble : Instr → Bool
  | .softReset _ => true
  | .quiesce => true
  | .loadPattern .. => true
  | .playPattern .. => true
  | .stopRumble => true
  | .setRumble .. => true
  | .readRumble => true
  | .cue => true
  | .rumbleUnit => true
  | .minuteEvent _ => true
  | .supplyReading _ => true
  | .wakeEvent _ => true
  | .consoleReset => true
  | .keepDomainStop => true
  | .cellReset => true
  | _ => false

set_option maxHeartbeats 2000000 in
/-- Every other command leaves the rumble driver as it was, or as the wake from DOZE leaves it. -/
theorem exec_keeps_rumble {c : Instr} {s t : State} (hc : Instr.changesRumble c = false) (h : exec c s = .next t) :
    t.rumble = s.rumble ∨ t.rumble = s.wake.rumble := by
  cases c <;> first | (exact absurd (show true = false from hc) (by decide)) | skip
  all_goals cases h
  all_goals try exact Or.inl rfl

  all_goals try (refine submit_cases (P := fun t => t.rumble = s.rumble ∨ t.rumble = s.wake.rumble) (.inl rfl) (.inl rfl) fun _ _ => ?_)
  all_goals try simp only [State.onRecord, State.onSlot, State.onCounter, State.armRequest, State.arm, State.armAnswer,
    State.takeReading, State.readingUp, State.readingOff]
  all_goals repeat' split
  all_goals try (refine submit_cases (P := fun t => t.rumble = s.rumble ∨ t.rumble = s.wake.rumble) (.inl rfl) (.inl rfl) fun _ _ => ?_)
  all_goals try simp

/-- The commands that can change power control and supply watch. -/
def Instr.changesPower : Instr → Bool
  | .ackNotice _ => true
  | .fadeComplete => true
  | .consoleResetRelease => true
  | .retentionDoubtful _ => true
  | .minuteEvent _ => true
  | .supplyReading _ => true
  | .wakeEvent _ => true
  | .consoleReset => true
  | .keepDomainStop => true
  | .cellReset => true
  | _ => false

set_option maxHeartbeats 2000000 in
/-- Every other command leaves power control and supply watch as it was, or as the wake from DOZE leaves it. -/
theorem exec_keeps_power {c : Instr} {s t : State} (hc : Instr.changesPower c = false) (h : exec c s = .next t) :
    t.power = s.power ∨ t.power = s.wake.power := by
  cases c <;> first | (exact absurd (show true = false from hc) (by decide)) | skip
  all_goals cases h
  all_goals try exact Or.inl rfl

  all_goals try (refine submit_cases (P := fun t => t.power = s.power ∨ t.power = s.wake.power) (.inl rfl) (.inl rfl) fun _ _ => ?_)
  all_goals try simp only [State.onRecord, State.onSlot, State.onCounter, State.armRequest, State.arm, State.armAnswer,
    State.takeReading, State.readingUp, State.readingOff]
  all_goals repeat' split
  all_goals try (refine submit_cases (P := fun t => t.power = s.power ∨ t.power = s.wake.power) (.inl rfl) (.inl rfl) fun _ _ => ?_)
  all_goals try simp

/-- The commands that can change the count of free values. -/
def Instr.changesDraws : Instr → Bool
  | .readRumble => true
  | .softReset _ => true
  | _ => false

set_option maxHeartbeats 2000000 in
/-- Every other command leaves the count of free values alone. -/
theorem exec_keeps_draws {c : Instr} {s t : State} (hc : Instr.changesDraws c = false) (h : exec c s = .next t) :
    t.draws = s.draws := by
  cases c <;> first | (exact absurd (show true = false from hc) (by decide)) | skip
  all_goals cases h
  all_goals try rfl

  all_goals try (refine submit_cases (P := fun t => t.draws = s.draws) rfl rfl fun _ _ => ?_)
  all_goals try simp only [State.onRecord, State.onSlot, State.onCounter, State.armRequest, State.arm, State.armAnswer,
    State.takeReading, State.readingUp, State.readingOff]
  all_goals repeat' split
  all_goals try (refine submit_cases (P := fun t => t.draws = s.draws) rfl rfl fun _ _ => ?_)
  all_goals try simp

set_option maxHeartbeats 2000000 in
/-- No command touches the queue. -/
theorem exec_keeps_pending {c : Instr} {s t : State} (h : exec c s = .next t) :
    t.pending = s.pending := by
  cases c
  all_goals cases h
  all_goals try rfl

  all_goals try (refine submit_cases (P := fun t => t.pending = s.pending) rfl rfl fun _ _ => ?_)
  all_goals try simp only [State.onRecord, State.onSlot, State.onCounter, State.armRequest, State.arm, State.armAnswer,
    State.takeReading, State.readingUp, State.readingOff]
  all_goals repeat' split
  all_goals try (refine submit_cases (P := fun t => t.pending = s.pending) rfl rfl fun _ _ => ?_)
  all_goals try simp

end Sys2Proof.Machine
end

