-- ==== Sys2Proof/Laws/Memory.lean ====
section
/-! SUPPORT. The laws of keep memory: a read after a write, and that every memory operation keeps the canonical form. -/

namespace Sys2Proof.Machine

open Sys2Proof

/-- A byte that stands below every listed address reads as unwritten. -/
theorem Memory.read_below {m : Memory} {a : Nat} (h : ∀ c ∈ m, a < c.1) : Memory.read m a = Config.unwrittenByte := by
  induction m with
  | nil => rfl
  | cons c rest ih =>
    obtain ⟨k, v⟩ := c
    have hk : a < k := h (k, v) (by simp)
    simp only [Memory.read]
    rw [if_neg (by omega)]
    exact ih fun c hc => h c (by simp [hc])

/-- A write leaves the addresses it lists among the written one and those listed before. -/
theorem Memory.mem_write {m : Memory} {a : Nat} {b : Byte} {c : Host.Cell} (h : c ∈ Memory.write m a b) :
    (c = (a, b) ∧ b ≠ Config.unwrittenByte) ∨ c ∈ m := by
  induction m with
  | nil =>
    simp only [Memory.write] at h
    split at h
    · simp at h
    · simp at h; exact .inl ⟨h, by assumption⟩
  | cons d rest ih =>
    obtain ⟨k, v⟩ := d
    simp only [Memory.write] at h
    split at h
    · split at h
      · exact .inr h
      · rcases List.mem_cons.1 h with rfl | h
        · exact .inl ⟨rfl, by assumption⟩
        · exact .inr h
    · split at h
      · split at h
        · exact .inr (List.mem_cons_of_mem _ h)
        · rcases List.mem_cons.1 h with rfl | h
          · exact .inl ⟨rfl, by assumption⟩
          · exact .inr (List.mem_cons_of_mem _ h)
      · rcases List.mem_cons.1 h with rfl | h
        · exact .inr (by simp)
        · rcases ih h with h | h
          · exact .inl h
          · exact .inr (List.mem_cons_of_mem _ h)

theorem Memory.wf_nil : Memory.Wf [] := ⟨List.Pairwise.nil, by simp⟩

/-- The rest of a canonical memory is canonical, and its head stands below it. -/
theorem Memory.wf_cons {k : Nat} {v : Byte} {rest : Memory} (h : Memory.Wf ((k, v) :: rest)) :
    Memory.Wf rest ∧ (∀ c ∈ rest, k < c.1) ∧ v ≠ Config.unwrittenByte := by
  obtain ⟨hp, hv⟩ := h
  rw [List.pairwise_cons] at hp
  exact ⟨⟨hp.2, fun c hc => hv c (by simp [hc])⟩, hp.1, hv (k, v) (by simp)⟩

theorem Memory.wf_of_cons {k : Nat} {v : Byte} {rest : Memory} (hr : Memory.Wf rest) (hk : ∀ c ∈ rest, k < c.1)
    (hv : v ≠ Config.unwrittenByte) : Memory.Wf ((k, v) :: rest) := by
  refine ⟨List.pairwise_cons.2 ⟨hk, hr.1⟩, ?_⟩
  intro c hc
  rcases List.mem_cons.1 hc with rfl | hc
  · exact hv
  · exact hr.2 c hc

/-- A write keeps the canonical form. -/
theorem Memory.write_wf {m : Memory} (h : Memory.Wf m) (a : Nat) (b : Byte) : Memory.Wf (Memory.write m a b) := by
  induction m with
  | nil =>
    simp only [Memory.write]
    split
    · exact wf_nil
    · exact wf_of_cons wf_nil (by simp) (by assumption)
  | cons d rest ih =>
    obtain ⟨k, v⟩ := d
    obtain ⟨hr, hk, hv⟩ := wf_cons h
    simp only [Memory.write]
    split
    · split
      · exact h
      · refine wf_of_cons h ?_ (by assumption)
        intro c hc
        rcases List.mem_cons.1 hc with rfl | hc
        · assumption
        · have := hk c hc; omega
    · split
      · split
        · exact hr
        · subst a
          exact wf_of_cons hr hk (by assumption)
      · refine wf_of_cons (ih hr) ?_ hv
        intro c hc
        rcases Memory.mem_write hc with ⟨rfl, -⟩ | hc
        · show k < a
          omega
        · exact hk c hc

/-- A byte written is the byte read. -/
theorem Memory.read_write_same {m : Memory} (h : Memory.Wf m) (a : Nat) (b : Byte) :
    Memory.read (Memory.write m a b) a = b := by
  induction m with
  | nil =>
    simp only [Memory.write]
    split
    · simp_all [Memory.read]
    · simp [Memory.read]
  | cons d rest ih =>
    obtain ⟨k, v⟩ := d
    obtain ⟨hr, hk, hv⟩ := wf_cons h
    simp only [Memory.write]
    split
    · split
      · rw [Memory.read_below]
        · simp_all
        · intro c hc
          rcases List.mem_cons.1 hc with rfl | hc
          · assumption
          · have := hk c hc; omega
      · simp [Memory.read]
    · split
      · subst a
        split
        · rw [Memory.read_below hk]; simp_all
        · simp [Memory.read]
      · simp only [Memory.read]
        rw [if_neg (by omega)]
        exact ih hr

/-- A write leaves every other byte alone. -/
theorem Memory.read_write_other {m : Memory} (h : Memory.Wf m) {a x : Nat} (b : Byte) (hx : x ≠ a) :
    Memory.read (Memory.write m a b) x = Memory.read m x := by
  induction m with
  | nil =>
    simp only [Memory.write]
    split
    · rfl
    · simp [Memory.read, Ne.symm hx]
  | cons d rest ih =>
    obtain ⟨k, v⟩ := d
    obtain ⟨hr, hk, hv⟩ := wf_cons h
    simp only [Memory.write]
    split
    · split
      · rfl
      · simp [Memory.read, Ne.symm hx]
    · split
      · subst a
        split
        · simp [Memory.read, Ne.symm hx]
        · simp [Memory.read, Ne.symm hx]
      · simp only [Memory.read]
        split
        · rfl
        · exact ih hr

/-- A payload write keeps the canonical form. -/
theorem writePayload_wf {m : Memory} (h : Memory.Wf m) (blocks : List Block) (i : Nat) (bytes : List Byte) :
    Memory.Wf (writePayload m blocks i bytes) := by
  induction bytes generalizing m i with
  | nil => exact h
  | cons b rest ih =>
    refine ih ?_ _
    unfold writePayloadByte
    split
    · exact Memory.write_wf h _ _
    · exact h

/-- The address of a payload byte lies in one of the blocks. -/
theorem payloadAddress_block {blocks : List Block} {i a : Nat} (h : payloadAddress blocks i = some a) :
    ∃ b ∈ blocks, a = b.val * Config.blockSize + i % Config.blockSize := by
  unfold payloadAddress at h
  rw [Option.map_eq_some_iff] at h
  obtain ⟨b, hb, rfl⟩ := h
  exact ⟨b, List.mem_of_getElem? hb, rfl⟩

/-- The block a payload address lies in. -/
theorem payloadAddress_div {blocks : List Block} {i a : Nat} (h : payloadAddress blocks i = some a) :
    ∃ b ∈ blocks, a / Config.blockSize = b.val := by
  obtain ⟨b, hb, rfl⟩ := payloadAddress_block h
  refine ⟨b, hb, ?_⟩
  simp only [Config.blockSize]
  omega

/-- A payload write leaves every byte outside its blocks alone. -/
theorem read_writePayload_outside {m : Memory} (h : Memory.Wf m) {blocks : List Block} (i : Nat) (bytes : List Byte)
    {x : Nat} (hx : ∀ b ∈ blocks, x / Config.blockSize ≠ b.val) :
    Memory.read (writePayload m blocks i bytes) x = Memory.read m x := by
  induction bytes generalizing m i with
  | nil => rfl
  | cons b rest ih =>
    simp only [writePayload]
    have key : Memory.Wf (writePayloadByte m blocks i b) ∧
        Memory.read (writePayloadByte m blocks i b) x = Memory.read m x := by
      unfold writePayloadByte
      split
      · rename_i a ha
        refine ⟨Memory.write_wf h _ _, Memory.read_write_other h _ ?_⟩
        obtain ⟨c, hc, hac⟩ := payloadAddress_div ha
        intro e
        exact hx c hc (by rw [e, hac])
      · exact ⟨h, rfl⟩
    rw [ih key.1, key.2]

/-- Contents carried by blocks outside those written are unchanged. -/
theorem readPayload_writePayload_disjoint {m : Memory} (h : Memory.Wf m) {blocks others : List Block} (i : Nat)
    (bytes : List Byte) (hd : ∀ b ∈ others, b ∉ blocks) (offset count : Nat) :
    readPayload (writePayload m blocks i bytes) others offset count = readPayload m others offset count := by
  unfold readPayload
  apply List.map_congr_left
  intro j _
  unfold payloadByte
  split
  · rename_i a ha
    obtain ⟨c, hc, hac⟩ := payloadAddress_div ha
    apply read_writePayload_outside h
    intro b hb e
    have : c = b := Fin.ext (by omega)
    exact hd c hc (this ▸ hb)
  · rfl

/-- A payload byte has an address exactly when its blocks reach it. -/
theorem payloadAddress_isSome {blocks : List Block} {i : Nat} :
    (payloadAddress blocks i).isSome = true ↔ i < Config.blockSize * blocks.length := by
  unfold payloadAddress
  rw [Option.isSome_map, Option.isSome_iff_ne_none, ne_eq, List.getElem?_eq_none_iff]
  simp only [Config.blockSize]
  omega

/-- Two payload bytes of a list of distinct blocks never share an address. -/
theorem payloadAddress_inj {blocks : List Block} (hn : blocks.Nodup) {i j a : Nat} (hi : payloadAddress blocks i = some a)
    (hj : payloadAddress blocks j = some a) : i = j := by
  unfold payloadAddress at hi hj
  rw [Option.map_eq_some_iff] at hi hj
  obtain ⟨b, hb, hba⟩ := hi
  obtain ⟨c, hc, hca⟩ := hj
  simp only [Config.blockSize] at *
  have hbc : b = c := Fin.ext (by omega)
  subst hbc
  have hlt := (List.getElem?_eq_some_iff.1 hb).1
  have := (List.getElem?_inj hlt hn).1 (hb.trans hc.symm)
  omega

/-- A payload write changes no byte but those at the addresses of the payload bytes it writes. -/
theorem read_writePayload_other {m : Memory} (h : Memory.Wf m) {blocks : List Block} (i : Nat) (bytes : List Byte) {x : Nat}
    (hx : ∀ j < bytes.length, payloadAddress blocks (i + j) ≠ some x) :
    Memory.read (writePayload m blocks i bytes) x = Memory.read m x := by
  induction bytes generalizing m i with
  | nil => rfl
  | cons b rest ih =>
    simp only [writePayload]
    have key : Memory.Wf (writePayloadByte m blocks i b) ∧
        Memory.read (writePayloadByte m blocks i b) x = Memory.read m x := by
      unfold writePayloadByte
      split
      · rename_i a ha
        refine ⟨Memory.write_wf h _ _, Memory.read_write_other h _ ?_⟩
        intro e
        exact hx 0 (by simp) (by rw [e]; exact ha)
      · exact ⟨h, rfl⟩
    rw [ih key.1, key.2]
    intro j hj
    have := hx (j + 1) (by simpa using hj)
    rwa [show i + 1 + j = i + (j + 1) by omega]

/-- A payload write puts byte j of its bytes at the address of payload byte i + j. -/
theorem read_writePayload_at {m : Memory} (h : Memory.Wf m) {blocks : List Block} (hn : blocks.Nodup) (i : Nat)
    (bytes : List Byte) {j a : Nat} {b : Byte} (ha : payloadAddress blocks (i + j) = some a) (hb : bytes[j]? = some b) :
    Memory.read (writePayload m blocks i bytes) a = b := by
  induction bytes generalizing m i j with
  | nil => simp at hb
  | cons c rest ih =>
    simp only [writePayload]
    have hw : Memory.Wf (writePayloadByte m blocks i c) := writePayload_wf h blocks i [c]
    cases j with
    | zero =>
      simp only [List.getElem?_cons_zero, Option.some.injEq] at hb
      subst hb
      rw [read_writePayload_other hw]
      · unfold writePayloadByte
        rw [show payloadAddress blocks i = some a from ha]
        exact Memory.read_write_same h _ _
      · intro j _ hj
        have := payloadAddress_inj hn ha hj
        omega
    | succ j =>
      refine ih hw (i + 1) (j := j) ?_ (by simpa using hb)
      rwa [show i + 1 + j = i + (j + 1) by omega]

end Sys2Proof.Machine
end

