-- ==== Sys2Proof/Laws/PerInstr.lean ====
section
/-! SUPPORT. The family RequestShape: what each command lays in the request area. A request lays its command code and its
operands, and they fit the area; UNKNOWN lays a code that names no request; an event that is no request lays nothing. -/

namespace Sys2Proof.Laws.RequestShape

open Sys2Proof Sys2Proof.Machine

/-- A command lays nothing, or lays at most the 31 bytes of the request area, of which the first, where the command is well
formed, names a request unless the command is UNKNOWN. -/
def Statement (i : Instr) : Prop :=
  requestBytes i = [] ∨
    ((requestBytes i).length ≤ 31 ∧
      (i.wellFormed = true →
        ∃ code rest, requestBytes i = code :: rest ∧ (code ∈ requestCodes ↔ ∀ c, i ≠ .unknown c)))

theorem identify : Statement (.identify) :=
  .inr ⟨Nat.le_of_ble_eq_true rfl, fun _ => ⟨_, _, rfl, by simp [requestCodes]⟩⟩

theorem readStatus : Statement (.readStatus) :=
  .inr ⟨Nat.le_of_ble_eq_true rfl, fun _ => ⟨_, _, rfl, by simp [requestCodes]⟩⟩

theorem readNotices : Statement (.readNotices) :=
  .inr ⟨Nat.le_of_ble_eq_true rfl, fun _ => ⟨_, _, rfl, by simp [requestCodes]⟩⟩

theorem ackNotice (mask : Byte) : Statement (.ackNotice mask) :=
  .inr ⟨Nat.le_of_ble_eq_true rfl, fun _ => ⟨_, _, rfl, by simp [requestCodes]⟩⟩

theorem setNoticeMask (mask : Byte) : Statement (.setNoticeMask mask) :=
  .inr ⟨Nat.le_of_ble_eq_true rfl, fun _ => ⟨_, _, rfl, by simp [requestCodes]⟩⟩

theorem quiesce : Statement (.quiesce) :=
  .inr ⟨Nat.le_of_ble_eq_true rfl, fun _ => ⟨_, _, rfl, by simp [requestCodes]⟩⟩

theorem softReset (now : Instant) : Statement (.softReset now) :=
  .inr ⟨Nat.le_of_ble_eq_true rfl, fun _ => ⟨_, _, rfl, by simp [requestCodes]⟩⟩

theorem unknown (code : Byte) : Statement (.unknown code) :=
  .inr ⟨by simp [requestBytes], fun h => ⟨code, [], rfl, by
    have : code ∉ requestCodes := by simpa [Instr.wellFormed] using h
    simp [this]⟩⟩

theorem overrun : Statement (.overrun) := .inl rfl

theorem windowWrite (offset : BitVec 7) (value : Byte) : Statement (.windowWrite offset value) := .inl rfl

theorem create (key length : Half) (fill count : Byte) (spec0 spec1 spec2 spec3 : CounterSpec) : Statement (.create key length fill count spec0 spec1 spec2 spec3) :=
  .inr ⟨Nat.le_of_ble_eq_true rfl, fun _ => ⟨_, _, rfl, by simp [requestCodes]⟩⟩

theorem entryStep : Statement (.entryStep) := .inl rfl

theorem info (key : Half) : Statement (.info key) :=
  .inr ⟨Nat.le_of_ble_eq_true rfl, fun _ => ⟨_, _, rfl, by simp [requestCodes]⟩⟩

theorem list (after : Half) : Statement (.list after) :=
  .inr ⟨Nat.le_of_ble_eq_true rfl, fun _ => ⟨_, _, rfl, by simp [requestCodes]⟩⟩

theorem retire (key : Half) : Statement (.retire key) :=
  .inr ⟨Nat.le_of_ble_eq_true rfl, fun _ => ⟨_, _, rfl, by simp [requestCodes]⟩⟩

theorem retireAnswer : Statement (.retireAnswer) := .inl rfl

theorem storeSpace : Statement (.storeSpace) :=
  .inr ⟨Nat.le_of_ble_eq_true rfl, fun _ => ⟨_, _, rfl, by simp [requestCodes]⟩⟩

theorem openChange (key newLength : Half) (copyIn : Byte) : Statement (.openChange key newLength copyIn) :=
  .inr ⟨Nat.le_of_ble_eq_true rfl, fun _ => ⟨_, _, rfl, by simp [requestCodes]⟩⟩

theorem openChangeEntry : Statement (.openChangeEntry) := .inl rfl

theorem writePiece (key offset : Half) (count : Byte) : Statement (.writePiece key offset count) :=
  .inr ⟨Nat.le_of_ble_eq_true rfl, fun _ => ⟨_, _, rfl, by simp [requestCodes]⟩⟩

theorem readPiece (key offset : Half) (count source : Byte) : Statement (.readPiece key offset count source) :=
  .inr ⟨Nat.le_of_ble_eq_true rfl, fun _ => ⟨_, _, rfl, by simp [requestCodes]⟩⟩

theorem verification : Statement (.verification) := .inl rfl

theorem closeChange (key : Half) : Statement (.closeChange key) :=
  .inr ⟨Nat.le_of_ble_eq_true rfl, fun _ => ⟨_, _, rfl, by simp [requestCodes]⟩⟩

theorem closeAll : Statement (.closeAll) :=
  .inr ⟨Nat.le_of_ble_eq_true rfl, fun _ => ⟨_, _, rfl, by simp [requestCodes]⟩⟩

theorem swapStage : Statement (.swapStage) := .inl rfl

theorem abandonChange (key : Half) : Statement (.abandonChange key) :=
  .inr ⟨Nat.le_of_ble_eq_true rfl, fun _ => ⟨_, _, rfl, by simp [requestCodes]⟩⟩

theorem auditStep : Statement (.auditStep) := .inl rfl

theorem readCounter (key : Half) (index : Byte) : Statement (.readCounter key index) :=
  .inr ⟨Nat.le_of_ble_eq_true rfl, fun _ => ⟨_, _, rfl, by simp [requestCodes]⟩⟩

theorem adjustCounter (key : Half) (index : Byte) (delta : Half) : Statement (.adjustCounter key index delta) :=
  .inr ⟨Nat.le_of_ble_eq_true rfl, fun _ => ⟨_, _, rfl, by simp [requestCodes]⟩⟩

theorem setCounter (key : Half) (index : Byte) (value : Half) : Statement (.setCounter key index value) :=
  .inr ⟨Nat.le_of_ble_eq_true rfl, fun _ => ⟨_, _, rfl, by simp [requestCodes]⟩⟩

theorem swapCounter (key : Half) (index : Byte) (expected new : Half) : Statement (.swapCounter key index expected new) :=
  .inr ⟨Nat.le_of_ble_eq_true rfl, fun _ => ⟨_, _, rfl, by simp [requestCodes]⟩⟩

theorem setBounds (key : Half) (index : Byte) (floor ceiling : Half) : Statement (.setBounds key index floor ceiling) :=
  .inr ⟨Nat.le_of_ble_eq_true rfl, fun _ => ⟨_, _, rfl, by simp [requestCodes]⟩⟩

theorem tendAction : Statement (.tendAction) := .inl rfl

theorem tendAnswer : Statement (.tendAnswer) := .inl rfl

theorem readClock : Statement (.readClock) :=
  .inr ⟨Nat.le_of_ble_eq_true rfl, fun _ => ⟨_, _, rfl, by simp [requestCodes]⟩⟩

theorem setWall (year : Half) (month day hour minute second : Byte) : Statement (.setWall year month day hour minute second) :=
  .inr ⟨Nat.le_of_ble_eq_true rfl, fun _ => ⟨_, _, rfl, by simp [requestCodes]⟩⟩

theorem setDayTurn (turn : Half) : Statement (.setDayTurn turn) :=
  .inr ⟨Nat.le_of_ble_eq_true rfl, fun _ => ⟨_, _, rfl, by simp [requestCodes]⟩⟩

theorem secondEvent : Statement (.secondEvent) := .inl rfl

theorem minuteEvent (reading : Reading) : Statement (.minuteEvent reading) := .inl rfl

theorem armElapsed (tag : Half) (first interval : BitVec 24) (action : ActionBytes) : Statement (.armElapsed tag first interval action) :=
  .inr ⟨Nat.le_of_ble_eq_true rfl, fun _ => ⟨_, _, rfl, by simp [requestCodes]⟩⟩

theorem armDaily (tag : Half) (period first : Byte) (action : ActionBytes) : Statement (.armDaily tag period first action) :=
  .inr ⟨Nat.le_of_ble_eq_true rfl, fun _ => ⟨_, _, rfl, by simp [requestCodes]⟩⟩

theorem armWall (tag : Half) (due : BitVec 32) (action : ActionBytes) : Statement (.armWall tag due action) :=
  .inr ⟨Nat.le_of_ble_eq_true rfl, fun _ => ⟨_, _, rfl, by simp [requestCodes]⟩⟩

theorem findEvent (tag : Half) : Statement (.findEvent tag) :=
  .inr ⟨Nat.le_of_ble_eq_true rfl, fun _ => ⟨_, _, rfl, by simp [requestCodes]⟩⟩

theorem eventInfo (slot : Byte) : Statement (.eventInfo slot) :=
  .inr ⟨Nat.le_of_ble_eq_true rfl, fun _ => ⟨_, _, rfl, by simp [requestCodes]⟩⟩

theorem cancelEvent (slot : Byte) : Statement (.cancelEvent slot) :=
  .inr ⟨Nat.le_of_ble_eq_true rfl, fun _ => ⟨_, _, rfl, by simp [requestCodes]⟩⟩

theorem readDue (start : Byte) : Statement (.readDue start) :=
  .inr ⟨Nat.le_of_ble_eq_true rfl, fun _ => ⟨_, _, rfl, by simp [requestCodes]⟩⟩

theorem ackDue (slot count : Byte) : Statement (.ackDue slot count) :=
  .inr ⟨Nat.le_of_ble_eq_true rfl, fun _ => ⟨_, _, rfl, by simp [requestCodes]⟩⟩

theorem setDueThreshold (threshold : Byte) : Statement (.setDueThreshold threshold) :=
  .inr ⟨Nat.le_of_ble_eq_true rfl, fun _ => ⟨_, _, rfl, by simp [requestCodes]⟩⟩

theorem loadWave (table : Byte) : Statement (.loadWave table) :=
  .inr ⟨Nat.le_of_ble_eq_true rfl, fun _ => ⟨_, _, rfl, by simp [requestCodes]⟩⟩

theorem setVoice (voice group conditioning refill : Byte) : Statement (.setVoice voice group conditioning refill) :=
  .inr ⟨Nat.le_of_ble_eq_true rfl, fun _ => ⟨_, _, rfl, by simp [requestCodes]⟩⟩

theorem queueNotes (voice count : Byte) (note1 note2 note3 : NoteBytes) : Statement (.queueNotes voice count note1 note2 note3) :=
  .inr ⟨Nat.le_of_ble_eq_true rfl, fun _ => ⟨_, _, rfl, by simp [requestCodes]⟩⟩

theorem startVoices (mask : Byte) : Statement (.startVoices mask) :=
  .inr ⟨Nat.le_of_ble_eq_true rfl, fun _ => ⟨_, _, rfl, by simp [requestCodes]⟩⟩

theorem holdVoices (mask : Byte) : Statement (.holdVoices mask) :=
  .inr ⟨Nat.le_of_ble_eq_true rfl, fun _ => ⟨_, _, rfl, by simp [requestCodes]⟩⟩

theorem releaseVoices (mask : Byte) : Statement (.releaseVoices mask) :=
  .inr ⟨Nat.le_of_ble_eq_true rfl, fun _ => ⟨_, _, rfl, by simp [requestCodes]⟩⟩

theorem stopVoices (mask : Byte) : Statement (.stopVoices mask) :=
  .inr ⟨Nat.le_of_ble_eq_true rfl, fun _ => ⟨_, _, rfl, by simp [requestCodes]⟩⟩

theorem setMaster (volume : Byte) : Statement (.setMaster volume) :=
  .inr ⟨Nat.le_of_ble_eq_true rfl, fun _ => ⟨_, _, rfl, by simp [requestCodes]⟩⟩

theorem readVoices : Statement (.readVoices) :=
  .inr ⟨Nat.le_of_ble_eq_true rfl, fun _ => ⟨_, _, rfl, by simp [requestCodes]⟩⟩

theorem readMarkers : Statement (.readMarkers) :=
  .inr ⟨Nat.le_of_ble_eq_true rfl, fun _ => ⟨_, _, rfl, by simp [requestCodes]⟩⟩

theorem setLink (mode format offset : Byte) (now : Instant) : Statement (.setLink mode format offset now) :=
  .inr ⟨Nat.le_of_ble_eq_true rfl, fun _ => ⟨_, _, rfl, by simp [requestCodes]⟩⟩

theorem readLink : Statement (.readLink) :=
  .inr ⟨Nat.le_of_ble_eq_true rfl, fun _ => ⟨_, _, rfl, by simp [requestCodes]⟩⟩

theorem loadPattern (pattern count repeats : Byte) : Statement (.loadPattern pattern count repeats) :=
  .inr ⟨Nat.le_of_ble_eq_true rfl, fun _ => ⟨_, _, rfl, by simp [requestCodes]⟩⟩

theorem playPattern (pattern priority : Byte) : Statement (.playPattern pattern priority) :=
  .inr ⟨Nat.le_of_ble_eq_true rfl, fun _ => ⟨_, _, rfl, by simp [requestCodes]⟩⟩

theorem stopRumble : Statement (.stopRumble) :=
  .inr ⟨Nat.le_of_ble_eq_true rfl, fun _ => ⟨_, _, rfl, by simp [requestCodes]⟩⟩

theorem setRumble (strength kick : Byte) : Statement (.setRumble strength kick) :=
  .inr ⟨Nat.le_of_ble_eq_true rfl, fun _ => ⟨_, _, rfl, by simp [requestCodes]⟩⟩

theorem readRumble : Statement (.readRumble) :=
  .inr ⟨Nat.le_of_ble_eq_true rfl, fun _ => ⟨_, _, rfl, by simp [requestCodes]⟩⟩

theorem readPower : Statement (.readPower) :=
  .inr ⟨Nat.le_of_ble_eq_true rfl, fun _ => ⟨_, _, rfl, by simp [requestCodes]⟩⟩

theorem cue : Statement (.cue) := .inl rfl

theorem frameInstant : Statement (.frameInstant) := .inl rfl

theorem fsiStrobe (arrival : Instant) : Statement (.fsiStrobe arrival) := .inl rfl

theorem substitution : Statement (.substitution) := .inl rfl

theorem soundTick : Statement (.soundTick) := .inl rfl

theorem fadeComplete : Statement (.fadeComplete) := .inl rfl

theorem rumbleUnit : Statement (.rumbleUnit) := .inl rfl

theorem supplyReading (reading : Reading) : Statement (.supplyReading reading) := .inl rfl

theorem wakeEvent (reading : Reading) : Statement (.wakeEvent reading) := .inl rfl

theorem consoleReset : Statement (.consoleReset) := .inl rfl

theorem consoleResetRelease : Statement (.consoleResetRelease) := .inl rfl

theorem retentionDoubtful (faults : List RetentionFault) : Statement (.retentionDoubtful faults) := .inl rfl

theorem keepDomainStop : Statement (.keepDomainStop) := .inl rfl

theorem cellReset : Statement (.cellReset) := .inl rfl

end Sys2Proof.Laws.RequestShape
end

