-- ==== Sys2Proof/Laws/Store.lean ====
section
/-! SUPPORT. The laws of the catalog and of the blocks of keep memory: what finding, updating, inserting, selecting blocks
and turning a counter can do. -/

namespace Sys2Proof.Machine

open Sys2Proof

/-! ### Free blocks and their selection (R1, R2) -/

theorem Store.mem_freeBlocks {st : Store} {b : Block} : b ∈ st.freeBlocks ↔ b ∉ st.usedBlocks := by
  simp [Store.freeBlocks]

theorem Store.freeBlocks_nodup (st : Store) : st.freeBlocks.Nodup := (List.nodup_finRange 1024).filter _

/-- The free blocks stand in ascending order. -/
theorem Store.freeBlocks_sorted (st : Store) : st.freeBlocks.Pairwise (· < ·) :=
  List.Pairwise.filter _ (List.pairwise_lt_finRange 1024)

/-- A selected block is free. -/
theorem Store.lowestFree_free {st : Store} {n : Nat} {b : Block} (h : b ∈ st.lowestFree n) : b ∉ st.usedBlocks :=
  Store.mem_freeBlocks.1 (List.mem_of_mem_take h)

theorem Store.lowestFree_nodup (st : Store) (n : Nat) : (st.lowestFree n).Nodup :=
  (Store.freeBlocks_nodup st).sublist (List.take_sublist _ _)

/-- The selected blocks stand in ascending order. -/
theorem Store.lowestFree_sorted (st : Store) (n : Nat) : (st.lowestFree n).Pairwise (· < ·) :=
  (Store.freeBlocks_sorted st).sublist (List.take_sublist _ _)

theorem Store.lacksSpace_iff {st : Store} {n : Nat} : st.lacksSpace n = true ↔ st.freeBlocks.length < n := by
  simp [Store.lacksSpace, Store.lowestFree]

/-- With space enough the selection has the length asked for. -/
theorem Store.lowestFree_length {st : Store} {n : Nat} (h : st.lacksSpace n = false) : (st.lowestFree n).length = n := by
  have : ¬ st.freeBlocks.length < n := by
    rw [← Store.lacksSpace_iff, h]; simp
  simp [Store.lowestFree]; omega

/-- A selection made with space enough is what CREATE and OPEN-CHANGE hold until their entry step. -/
theorem Store.lowestFree_selected {st : Store} {length : Nat} (h : st.lacksSpace (blocksFor length) = false) :
    st.Selected (st.lowestFree (blocksFor length)) length :=
  ⟨Store.lowestFree_length h, Store.lowestFree_nodup _ _, fun _ hb => Store.lowestFree_free hb⟩

/-! ### Finding an entry -/

theorem Store.find_some {st : Store} {key : Nat} {e : Entry} (h : st.find key = some e) : e ∈ st.catalog ∧ e.key = key := by
  unfold Store.find at h
  exact ⟨List.mem_of_find?_eq_some h, by simpa using List.find?_some h⟩

theorem Store.find_none {st : Store} {key : Nat} : st.find key = none ↔ ∀ e ∈ st.catalog, e.key ≠ key := by
  simp [Store.find]

/-- In a catalog with distinct keys an entry is found under its key. -/
theorem Store.find_of_mem {st : Store} (h : st.catalog.Pairwise fun a b => a.key < b.key) {e : Entry}
    (he : e ∈ st.catalog) : st.find e.key = some e := by
  unfold Store.find
  generalize st.catalog = l at h he
  induction l with
  | nil => simp at he
  | cons x rest ih =>
    rw [List.pairwise_cons] at h
    rcases List.mem_cons.1 he with rfl | hr
    · simp
    · have : x.key ≠ e.key := Nat.ne_of_lt (h.1 e hr)
      simp [this, ih h.2 hr]

theorem Store.find_iff {st : Store} (h : st.catalog.Pairwise fun a b => a.key < b.key) {key : Nat} {e : Entry} :
    st.find key = some e ↔ e ∈ st.catalog ∧ e.key = key := by
  constructor
  · exact Store.find_some
  · rintro ⟨he, rfl⟩; exact Store.find_of_mem h he

/-! ### Changing an entry -/

theorem Store.mem_update {st : Store} {key : Nat} {f : Entry → Entry} {x : Entry} :
    x ∈ (st.update key f).catalog ↔ ∃ e ∈ st.catalog, (if e.key = key then f e else e) = x := by
  simp [Store.update]

/-- The entry of the key changed is found changed. -/
theorem Store.find_update_same {st : Store} {key : Nat} {f : Entry → Entry} (hk : ∀ e, (f e).key = e.key) {e : Entry}
    (h : st.find key = some e) : (st.update key f).find key = some (f e) := by
  have go : ∀ l : List Entry, l.find? (fun e => e.key == key) = some e →
      (l.map fun e => if e.key = key then f e else e).find? (fun e => e.key == key) = some (f e) := by
    intro l
    induction l with
    | nil => intro h; cases h
    | cons x rest ih =>
      intro h
      rw [List.find?_cons] at h
      rw [List.map_cons, List.find?_cons]
      by_cases hx : x.key = key
      · have h1 : (x.key == key) = true := by simpa using hx
        rw [h1] at h
        have h2 : x = e := by simpa using h
        subst h2
        have h3 : ((if x.key = key then f x else x).key == key) = true := by rw [if_pos hx, hk]; exact h1
        rw [h3, if_pos hx]
      · have h1 : (x.key == key) = false := by simpa using hx
        rw [h1] at h
        have h3 : ((if x.key = key then f x else x).key == key) = false := by rw [if_neg hx]; exact h1
        rw [h3]
        exact ih h
  exact go st.catalog h

/-- Every other entry is found as it was. -/
theorem Store.find_update_other {st : Store} {key other : Nat} {f : Entry → Entry} (hk : ∀ e, (f e).key = e.key)
    (h : other ≠ key) : (st.update key f).find other = st.find other := by
  have go : ∀ l : List Entry,
      (l.map fun e => if e.key = key then f e else e).find? (fun e => e.key == other) =
        l.find? fun e => e.key == other := by
    intro l
    induction l with
    | nil => rfl
    | cons x rest ih =>
      rw [List.map_cons, List.find?_cons, List.find?_cons, ih]
      by_cases hx : x.key = key
      · have h1 : (x.key == other) = false := by simp [hx, Ne.symm h]
        have h3 : ((if x.key = key then f x else x).key == other) = false := by rw [if_pos hx, hk]; exact h1
        rw [h1, h3]
      · rw [if_neg hx]
  exact go st.catalog

theorem Store.update_keys {st : Store} {key : Nat} {f : Entry → Entry} (hk : ∀ e, (f e).key = e.key) :
    (st.update key f).catalog.map Entry.key = st.catalog.map Entry.key := by
  simp only [Store.update, List.map_map]
  apply List.map_congr_left
  intro e _
  simp only [Function.comp]
  split
  · exact hk e
  · rfl

/-- Ascending key order is a matter of the keys alone. -/
theorem sorted_keys {l m : List Entry} (h : l.map Entry.key = m.map Entry.key)
    (hl : l.Pairwise fun a b => a.key < b.key) : m.Pairwise fun a b => a.key < b.key := by
  have h1 : (l.map Entry.key).Pairwise (· < ·) := List.pairwise_map.2 hl
  rw [h] at h1
  exact List.pairwise_map.1 h1

/-- A change that keeps an entry's blocks and shadow moves no block. -/
theorem Store.usedBlocks_update {st : Store} {key : Nat} {f : Entry → Entry} (hb : ∀ e, (f e).blocks = e.blocks)
    (hs : ∀ e, (f e).shadow = e.shadow) : (st.update key f).usedBlocks = st.usedBlocks := by
  unfold Store.usedBlocks Store.update
  rw [List.flatMap_map]
  congr 1
  funext e
  split <;> simp [Entry.shadowBlocks, hb, hs]

theorem Store.openCount_update {st : Store} {key : Nat} {f : Entry → Entry} (hs : ∀ e, (f e).shadow = e.shadow) :
    (st.update key f).openCount = st.openCount := by
  unfold Store.openCount Store.update
  rw [List.countP_map]
  congr 1
  funext e
  simp only [Function.comp, Entry.isOpen]
  split <;> simp [hs]

/-- A change that keeps key, length, blocks, generation, counter count and shadow keeps the store in good order. -/
theorem Store.Wf_update {st : Store} (h : st.Wf) {key : Nat} {f : Entry → Entry} (hk : ∀ e, (f e).key = e.key)
    (hl : ∀ e, (f e).length = e.length) (hb : ∀ e, (f e).blocks = e.blocks)
    (hg : ∀ e, (f e).generation = e.generation) (hc : ∀ e, (f e).counters.length = e.counters.length)
    (hs : ∀ e, (f e).shadow = e.shadow) : (st.update key f).Wf := by
  obtain ⟨h1, h2, h3, h4, h5⟩ := h
  refine ⟨sorted_keys (Store.update_keys hk).symm h1, by simpa [Store.update] using h2,
    by rw [Store.openCount_update hs]; exact h3, ?_, by rw [Store.usedBlocks_update hb hs]; exact h5⟩
  intro x hx
  obtain ⟨e, he, rfl⟩ := Store.mem_update.1 hx
  split
  · have := h4 e he
    unfold Entry.Wf at this ⊢
    rw [hk, hl, hb, hg, hc, hs]
    exact this
  · exact h4 e he

/-! ### Inserting an entry (R3, R8) -/

theorem mem_insertEntry {e x : Entry} {l : List Entry} : x ∈ insertEntry e l ↔ x = e ∨ x ∈ l := by
  induction l with
  | nil => simp [insertEntry]
  | cons y rest ih =>
    simp only [insertEntry]
    split
    · simp
    · simp only [List.mem_cons, ih]; tauto

theorem insertEntry_perm (e : Entry) (l : List Entry) : (insertEntry e l).Perm (e :: l) := by
  induction l with
  | nil => exact List.Perm.refl _
  | cons y rest ih =>
    simp only [insertEntry]
    split
    · exact List.Perm.refl _
    · exact (ih.cons y).trans (List.Perm.swap e y rest)

theorem insertEntry_length (e : Entry) (l : List Entry) : (insertEntry e l).length = l.length + 1 :=
  (insertEntry_perm e l).length_eq

/-- An entry whose key is not in the catalog joins it in its place by key order. -/
theorem insertEntry_sorted {e : Entry} {l : List Entry} (h : l.Pairwise fun a b => a.key < b.key)
    (hn : ∀ x ∈ l, x.key ≠ e.key) : (insertEntry e l).Pairwise fun a b => a.key < b.key := by
  induction l with
  | nil => simp [insertEntry]
  | cons y rest ih =>
    rw [List.pairwise_cons] at h
    have hy := hn y (by simp)
    simp only [insertEntry]
    split
    · rename_i hlt
      rw [List.pairwise_cons]
      refine ⟨?_, List.pairwise_cons.2 h⟩
      intro x hx
      rcases List.mem_cons.1 hx with rfl | hx
      · exact hlt
      · exact Nat.lt_trans hlt (h.1 x hx)
    · rename_i hge
      rw [List.pairwise_cons]
      refine ⟨?_, ih h.2 fun x hx => hn x (by simp [hx])⟩
      intro x hx
      rcases mem_insertEntry.1 hx with rfl | hx
      · omega
      · exact h.1 x hx

/-! ### Counters (R43, R44) -/

theorem clamp_low {low high x : Int} (h : low ≤ high) : low ≤ clamp low high x := by
  unfold clamp; omega

theorem clamp_high (low high x : Int) : clamp low high x ≤ high := by
  unfold clamp; omega

/-- A value within the bounds is not moved. -/
theorem clamp_inside {low high x : Int} (h1 : low ≤ x) (h2 : x ≤ high) : clamp low high x = x := by
  unfold clamp; omega

/-- A bounded counter keeps its bounds, and its value lies within them. -/
theorem Counter.bound_wf {c : Counter} (h : c.Wf) (x : Int) : (c.bound x).Wf := by
  obtain ⟨h1, h2, h3, h4⟩ := h
  have hfc : c.floor ≤ c.ceiling := by omega
  exact ⟨h1, clamp_low hfc, clamp_high _ _ _, h4⟩

/-- New bounds with floor not above ceiling, and the value clamped into them. -/
theorem boundedTo_wf {floor ceiling : Int} (h1 : -32768 ≤ floor) (h2 : floor ≤ ceiling) (h3 : ceiling ≤ 32767)
    (c : Counter) (x : Int) : (boundedTo { c with floor := floor, ceiling := ceiling } x).2.1.Wf :=
  ⟨h1, clamp_low h2, clamp_high _ _ _, h3⟩

theorem Half.toInt_range (x : Half) : -32768 ≤ x.toInt ∧ x.toInt ≤ 32767 := by
  constructor
  · have := BitVec.le_toInt x; simpa using this
  · have := BitVec.toInt_lt (x := x); norm_num at this; omega

/-- A counter formed from a specification whose floor is not above its ceiling is in good order (R7, R8). -/
theorem counterOf_wf {c : CounterSpec} (h : c.floor.toInt ≤ c.ceiling.toInt) : (counterOf c).Wf :=
  ⟨(Half.toInt_range _).1, clamp_low h, clamp_high _ _ _, (Half.toInt_range _).2⟩

@[simp] theorem Entry.setCounter_key (e : Entry) (i : Nat) (c : Counter) : (e.setCounter i c).key = e.key := rfl
@[simp] theorem Entry.setCounter_length (e : Entry) (i : Nat) (c : Counter) : (e.setCounter i c).length = e.length := rfl
@[simp] theorem Entry.setCounter_blocks (e : Entry) (i : Nat) (c : Counter) : (e.setCounter i c).blocks = e.blocks := rfl
@[simp] theorem Entry.setCounter_generation (e : Entry) (i : Nat) (c : Counter) :
    (e.setCounter i c).generation = e.generation := rfl
@[simp] theorem Entry.setCounter_check (e : Entry) (i : Nat) (c : Counter) : (e.setCounter i c).check = e.check := rfl
@[simp] theorem Entry.setCounter_shadow (e : Entry) (i : Nat) (c : Counter) : (e.setCounter i c).shadow = e.shadow := rfl
@[simp] theorem Entry.setCounter_damage (e : Entry) (i : Nat) (c : Counter) : (e.setCounter i c).damage = e.damage := rfl
@[simp] theorem Entry.setCounter_audited (e : Entry) (i : Nat) (c : Counter) : (e.setCounter i c).audited = e.audited := rfl
@[simp] theorem Entry.setCounter_counters_length (e : Entry) (i : Nat) (c : Counter) :
    (e.setCounter i c).counters.length = e.counters.length := by simp [Entry.setCounter]

/-- A counter set is the counter read; every other of the record is as it was. -/
theorem Entry.setCounter_get (e : Entry) (i j : Nat) (c : Counter) :
    (e.setCounter i c).counters[j]? =
      if i = j ∧ i < e.counters.length then some c else e.counters[j]? := by
  simp only [Entry.setCounter, List.getElem?_set]
  by_cases h : i = j
  · subst h
    by_cases hi : i < e.counters.length <;> simp [hi]
  · simp [h]

/-- What a tend action does to the store: nothing when it is absent, one counter replaced when it is applied (R53, R54). -/
theorem Store.tend_cases (st : Store) (t : TendAction) :
    (st.counterAt t.key t.index = none ∧ st.tend t = (st, .absent)) ∨
      ∃ c, st.counterAt t.key t.index = some c ∧
        st.tend t =
          (st.update t.key fun e => e.setCounter t.index (c.bound (c.value + t.amount)),
            .applied (c.bound (c.value + t.amount)).value) := by
  unfold Store.tend
  split
  · exact .inl ⟨by assumption, rfl⟩
  · exact .inr ⟨_, by assumption, rfl⟩

end Sys2Proof.Machine
end

