-- ==== Sys2Proof/Laws/Power.lean ====
section
/-! SUPPORT. What a reading, a main reset, a power-going and a fall of the keep supply can do. -/

namespace Sys2Proof.Machine

open Sys2Proof

/-- Everything a reading can do: in OFF the latest reading and the cell-low mark, or a main start; in RUN and DOZE the
readings' marks, or a power-going (R175 to R177). -/
theorem State.takeReading_cases (s : State) (r : Reading) :
    (s.power.main = .off ∧ r.console.toNat < Config.startLevel ∧
        s.takeReading r = { s with power := s.power.take r }) ∨
    (s.power.main = .off ∧ Config.startLevel ≤ r.console.toNat ∧
        s.takeReading r = { s with power := s.power.take r }.mainReset) ∨
    (s.power.main ≠ .off ∧ Config.goingLevel ≤ r.console.toNat ∧
        s.takeReading r =
          { s with
            power := { s.power.take r with firstReading := false }
            notices := s.notices.raiseIf (s.power.reportsCellLow r) Notices.raiseCellLow }.rumbleReading
              r.console.toNat) ∨
    (s.power.main ≠ .off ∧ r.console.toNat < Config.goingLevel ∧
        s.takeReading r =
          ({ s with
            power := { s.power.take r with firstReading := false }
            notices := s.notices.raiseIf (s.power.reportsCellLow r) Notices.raiseCellLow }.rumbleReading
              r.console.toNat).powerGoing) := by
  by_cases hm : s.power.main = .off
  · have hu : s.mainUp = false := by simp [State.mainUp, hm]
    by_cases hr : Config.startLevel ≤ r.console.toNat
    · right; left
      exact ⟨hm, hr, by simp [State.takeReading, hu, State.readingOff, hr]⟩
    · left
      exact ⟨hm, by omega, by simp [State.takeReading, hu, State.readingOff, hr]⟩
  · have hu : s.mainUp = true := by simp [State.mainUp, hm]
    by_cases hr : r.console.toNat < Config.goingLevel
    · right; right; right
      exact ⟨hm, hr, by simp [State.takeReading, hu, State.readingUp, hr]⟩
    · right; right; left
      exact ⟨hm, by omega, by simp [State.takeReading, hu, State.readingUp, hr]⟩

@[simp] theorem Power.take_main (p : Power) (r : Reading) : (p.take r).main = p.main := rfl
@[simp] theorem Power.take_reading (p : Power) (r : Reading) : (p.take r).reading = r := rfl
@[simp] theorem Power.take_keepRuns (p : Power) (r : Reading) : (p.take r).keepRuns = p.keepRuns := rfl
@[simp] theorem Power.take_resetHeld (p : Power) (r : Reading) : (p.take r).resetHeld = p.resetHeld := rfl
@[simp] theorem Power.take_retentionDoubtful (p : Power) (r : Reading) :
    (p.take r).retentionDoubtful = p.retentionDoubtful := rfl

@[simp] theorem Store.abandonAll_memory (st : Store) : st.abandonAll.memory = st.memory := rfl
@[simp] theorem Store.startAudit_memory (st : Store) : st.startAudit.memory = st.memory := rfl
@[simp] theorem Store.abandonAll_keepLost (st : Store) : st.abandonAll.keepLost = st.keepLost := rfl
@[simp] theorem Store.startAudit_keepLost (st : Store) : st.startAudit.keepLost = st.keepLost := rfl
@[simp] theorem Store.startAudit_changesLost (st : Store) : st.startAudit.changesLost = st.changesLost := rfl

@[simp] theorem State.mainReset_store (s : State) : s.mainReset.store = s.store.abandonAll.startAudit := rfl
@[simp] theorem State.mainReset_window (s : State) : s.mainReset.window = .reset := rfl
@[simp] theorem State.mainReset_sound (s : State) : s.mainReset.sound = .reset := rfl
@[simp] theorem State.mainReset_link (s : State) : s.mainReset.link = .reset := rfl
@[simp] theorem State.mainReset_rumble (s : State) : s.mainReset.rumble = .reset := rfl
@[simp] theorem State.mainReset_engine (s : State) : s.mainReset.engine = s.engine.evaluate s.calendar.moment := rfl
@[simp] theorem State.mainReset_power (s : State) :
    s.mainReset.power = { s.power with main := .run, firstReading := true } := rfl

@[simp] theorem State.powerGoing_store (s : State) : s.powerGoing.store = s.store.abandonAll := rfl
@[simp] theorem State.powerGoing_window (s : State) : s.powerGoing.window = .reset := rfl
@[simp] theorem State.powerGoing_notices (s : State) : s.powerGoing.notices = .reset := rfl
@[simp] theorem State.powerGoing_sound (s : State) : s.powerGoing.sound = .reset := rfl
@[simp] theorem State.powerGoing_rumble (s : State) : s.powerGoing.rumble = .reset := rfl
@[simp] theorem State.powerGoing_power (s : State) :
    s.powerGoing.power = { s.power with main := .off, firstReading := false } := rfl

@[simp] theorem Entry.abandoned_shadow (e : Entry) : e.abandoned.shadow = none := rfl
@[simp] theorem Entry.abandoned_isOpen (e : Entry) : e.abandoned.isOpen = false := rfl

/-- No change is open after the abandonment. -/
@[simp] theorem Store.abandonAll_openCount (st : Store) : st.abandonAll.openCount = 0 := by
  simp [Store.abandonAll, Store.openCount, List.countP_map, Function.comp_def]

/-! ### What a fall of the keep supply changes (R180; log 15) -/

/-- Everything a change of a catalog entry can be: none, or a LIVE entry with the fields of an entry the catalog can hold. -/
theorem Entry.canFault_iff {e : Entry} {st : Store} {f : CatalogFault} :
    e.canFault st f = true ↔
      e.shadow = none ∧ GoodLength f.length.toNat ∧ f.blocks.length = blocksFor f.length.toNat ∧ f.blocks.Nodup ∧
        (∀ b ∈ f.blocks, b ∈ e.blocks ∨ b ∉ st.usedBlocks) ∧ f.counters.length = e.counters.length ∧
        ∀ c ∈ f.counters, c.floor.toInt ≤ c.value.toInt ∧ c.value.toInt ≤ c.ceiling.toInt := by
  simp [Entry.canFault, Entry.isOpen, Store.mem_freeBlocks, and_assoc]

@[simp] theorem Entry.faulted_key (e : Entry) (f : CatalogFault) : (e.faulted f).key = e.key := rfl
@[simp] theorem Entry.faulted_shadow (e : Entry) (f : CatalogFault) : (e.faulted f).shadow = e.shadow := rfl
@[simp] theorem Entry.faulted_blocks (e : Entry) (f : CatalogFault) : (e.faulted f).blocks = f.blocks := rfl
@[simp] theorem Entry.faulted_counters (e : Entry) (f : CatalogFault) :
    (e.faulted f).counters = f.counters.map counterLeft := rfl

/-- A counter a fall left within its bounds is in good order (R43). -/
theorem counterLeft_wf {c : CounterFault} (h : c.floor.toInt ≤ c.value.toInt ∧ c.value.toInt ≤ c.ceiling.toInt) :
    (counterLeft c).Wf :=
  ⟨(Half.toInt_range _).1, h.1, h.2, (Half.toInt_range _).2⟩

/-- An entry of the store after a fall changed one is an entry from before, changed or not. -/
theorem Store.mem_faultEntry {st : Store} {f : CatalogFault} {x : Entry} (h : x ∈ (st.faultEntry f).catalog) :
    ∃ e ∈ st.catalog, x = e ∨ (e.key = f.key.toNat ∧ e.canFault st f = true ∧ x = e.faulted f) := by
  simp only [Store.faultEntry, List.mem_map] at h
  obtain ⟨e, he, rfl⟩ := h
  refine ⟨e, he, ?_⟩
  split
  · rename_i hc; exact .inr ⟨hc.1, hc.2, rfl⟩
  · exact .inl rfl

/-- A fall leaves the keys of the catalog, and each entry's shadow and number of counters, as they were. -/
theorem Store.faultEntry_keeps (st : Store) (f : CatalogFault) :
    (st.faultEntry f).catalog.map (fun e => (e.key, e.shadow, e.counters.length)) =
      st.catalog.map fun e => (e.key, e.shadow, e.counters.length) := by
  simp only [Store.faultEntry, List.map_map]
  apply List.map_congr_left
  intro e _
  simp only [Function.comp_apply]
  split
  · rename_i hc
    have := (Entry.canFault_iff.1 hc.2).2.2.2.2.2.1
    simp [this]
  · rfl

/-- The catalog stays in good order when a fall changes an entry of it. -/
theorem Store.faultEntry_wf {st : Store} (h : st.Wf) (f : CatalogFault) : (st.faultEntry f).Wf := by
  obtain ⟨h1, h2, h3, h4, h5⟩ := h
  have hkeys : (st.faultEntry f).catalog.map Entry.key = st.catalog.map Entry.key := by
    have := congrArg (List.map Prod.fst) (st.faultEntry_keeps f)
    simpa [Function.comp_def] using this
  have hopen : (st.faultEntry f).openCount = st.openCount := by
    simp only [Store.openCount, Store.faultEntry, List.countP_map]
    apply List.countP_congr
    intro e _
    simp only [Function.comp_apply]
    split <;> simp [Entry.isOpen]
  refine ⟨sorted_keys hkeys.symm h1, ?_, hopen ▸ h3, ?_, ?_⟩
  · simpa [Store.faultEntry] using h2
  · intro x hx
    obtain ⟨e, he, rfl | ⟨_, hc, rfl⟩⟩ := Store.mem_faultEntry hx
    · exact h4 x he
    · obtain ⟨hs, hl, hb, _, _, hn, _⟩ := Entry.canFault_iff.1 hc
      obtain ⟨g1, _, _, _, g5, _⟩ := h4 e he
      refine ⟨g1, hl, hb, ?_, ?_, ?_⟩
      · simp only [Entry.faulted]; omega
      · simpa [hn] using g5
      · simp [hs]
  · unfold Store.usedBlocks at h5 ⊢
    rw [List.nodup_flatMap] at h5 ⊢
    obtain ⟨hn, hd⟩ := h5
    constructor
    · intro x hx
      obtain ⟨e, he, rfl | ⟨_, hc, rfl⟩⟩ := Store.mem_faultEntry hx
      · exact hn x he
      · obtain ⟨hs, _, _, hb, _⟩ := Entry.canFault_iff.1 hc
        simpa [Entry.shadowBlocks, hs] using hb
    · have outside : ∀ a ∈ st.catalog, ∀ b ∈ st.catalog, a.canFault st f = true →
          List.Disjoint (a.blocks ++ a.shadowBlocks) (b.blocks ++ b.shadowBlocks) →
          List.Disjoint ((a.faulted f).blocks ++ (a.faulted f).shadowBlocks) (b.blocks ++ b.shadowBlocks) := by
        intro a _ b hb hc hab x hx hy
        obtain ⟨hs, _, _, _, hfree, _⟩ := Entry.canFault_iff.1 hc
        have hx' : x ∈ f.blocks := by simpa [Entry.shadowBlocks, hs] using hx
        rcases hfree x hx' with hx' | hx'
        · exact hab (List.mem_append_left _ hx') hy
        · exact hx' (List.mem_flatMap.2 ⟨b, hb, hy⟩)
      simp only [Store.faultEntry, List.pairwise_map]
      refine (h1.and hd).imp_of_mem ?_
      intro a b ha hb hab
      obtain ⟨hlt, hab⟩ := hab
      simp only [Function.onFun] at hab ⊢
      split
      · rename_i hca
        split
        · rename_i hcb; omega
        · exact outside a ha b hb hca.2 hab
      · split
        · rename_i hcb; exact (outside b hb a ha hcb.2 hab.symm).symm
        · exact hab

/-- Everything one thing a fall did not hold can do to the store: a byte written, nothing, or an entry changed. -/
theorem Store.fault_cases (busy : Bool) (st : Store) (f : RetentionFault) :
    (∃ a v, f = .byte a v ∧ st.fault busy f = { st with memory := Memory.write st.memory a.toNat v }) ∨
      st.fault busy f = st ∨ (busy = false ∧ ∃ c, f = .entry c ∧ st.fault busy f = st.faultEntry c) := by
  cases f with
  | byte a v => exact .inl ⟨a, v, rfl, rfl⟩
  | entry c =>
    cases busy with
    | true => exact .inr (.inl rfl)
    | false => exact .inr (.inr ⟨rfl, c, rfl, rfl⟩)

/-- A fall keeps the catalog in good order. -/
theorem Store.faults_wf {st : Store} (h : st.Wf) (busy : Bool) (faults : List RetentionFault) :
    (faults.foldl (Store.fault busy) st).Wf := by
  induction faults generalizing st with
  | nil => exact h
  | cons f rest ih =>
    refine ih ?_
    rcases Store.fault_cases busy st f with ⟨a, v, _, hf⟩ | hf | ⟨_, c, _, hf⟩
    · rw [hf]; exact h
    · rw [hf]; exact h
    · rw [hf]; exact Store.faultEntry_wf h c

/-- A fall keeps keep memory in canonical form. -/
theorem Store.faults_memory_wf {st : Store} (h : Memory.Wf st.memory) (busy : Bool) (faults : List RetentionFault) :
    Memory.Wf (faults.foldl (Store.fault busy) st).memory := by
  induction faults generalizing st with
  | nil => exact h
  | cons f rest ih =>
    refine ih ?_
    rcases Store.fault_cases busy st f with ⟨a, v, _, hf⟩ | hf | ⟨_, c, _, hf⟩
    · rw [hf]; exact Memory.write_wf h _ _
    · rw [hf]; exact h
    · rw [hf]; exact h

/-- A fall changes keep memory and the catalog alone. -/
theorem Store.faults_frame (busy : Bool) (st : Store) (faults : List RetentionFault) :
    ∃ m c, faults.foldl (Store.fault busy) st = { st with memory := m, catalog := c } := by
  induction faults generalizing st with
  | nil => exact ⟨_, _, rfl⟩
  | cons f rest ih =>
    obtain ⟨m, c, h⟩ := ih (st.fault busy f)
    refine ⟨m, c, ?_⟩
    simp only [List.foldl_cons, h]
    cases f with
    | byte a v => rfl
    | entry f => simp only [Store.fault]; split <;> rfl

/-- A fall leaves the keys of the catalog as they were. -/
theorem Store.faults_keys (busy : Bool) (st : Store) (faults : List RetentionFault) :
    (faults.foldl (Store.fault busy) st).catalog.map Entry.key = st.catalog.map Entry.key := by
  induction faults generalizing st with
  | nil => rfl
  | cons f rest ih =>
    rw [List.foldl_cons, ih]
    rcases Store.fault_cases busy st f with ⟨a, v, _, hf⟩ | hf | ⟨_, c, _, hf⟩
    · rw [hf]
    · rw [hf]
    · rw [hf]
      have := congrArg (List.map Prod.fst) (st.faultEntry_keeps c)
      simpa [Function.comp_def] using this

/-- A fall leaves an entry that none of its faults names as it was. -/
theorem Store.faults_other (busy : Bool) {st : Store} {faults : List RetentionFault} {e : Entry} (he : e ∈ st.catalog)
    (h : ∀ f, RetentionFault.entry f ∈ faults → f.key.toNat ≠ e.key) :
    e ∈ (faults.foldl (Store.fault busy) st).catalog := by
  induction faults generalizing st with
  | nil => exact he
  | cons f rest ih =>
    rw [List.foldl_cons]
    refine ih ?_ fun f hf => h f (List.mem_cons_of_mem _ hf)
    rcases Store.fault_cases busy st f with ⟨a, v, _, hf⟩ | hf | ⟨_, c, rfl, hf⟩
    · rw [hf]; exact he
    · rw [hf]; exact he
    · rw [hf]
      refine List.mem_map.2 ⟨e, he, if_neg ?_⟩
      rintro ⟨h1, _⟩
      exact h c List.mem_cons_self h1.symm

/-- A byte of keep memory reads after a fall as the last of its faults that names it says, or as before. -/
theorem Store.faults_read (busy : Bool) {st : Store} (hm : Memory.Wf st.memory) (faults : List RetentionFault) (a : Nat) :
    Memory.read (faults.foldl (Store.fault busy) st).memory a =
      (faults.reverse.findSome? fun f =>
        match f with
        | .byte address value => if address.toNat = a then some value else none
        | .entry _ => none).getD (Memory.read st.memory a) := by
  induction faults generalizing st with
  | nil => rfl
  | cons f rest ih =>
    have hw : Memory.Wf (st.fault busy f).memory := Store.faults_memory_wf (faults := [f]) hm busy
    rw [List.foldl_cons, ih hw, List.reverse_cons, List.findSome?_append]
    cases hh : rest.reverse.findSome? fun f =>
        match f with
        | RetentionFault.byte address value => if address.toNat = a then some value else none
        | .entry _ => none with
    | some x => rfl
    | none =>
      cases f with
      | entry f => simp only [Store.fault]; split <;> rfl
      | byte address v =>
        simp only [Store.fault, Option.none_or, List.findSome?_cons, List.findSome?_nil]
        by_cases h : address.toNat = a
        · subst h; simp [Memory.read_write_same hm]
        · simp [h, Memory.read_write_other hm v (Ne.symm h)]

end Sys2Proof.Machine
end

