-- ==== Sys2Proof/Laws/Rumble.lean ====
section
/-! SUPPORT. The laws of the rumble driver: where a request joins the queue, everything a new request can do, and the duty
under its ceiling. -/

namespace Sys2Proof.Machine

open Sys2Proof

theorem mem_joinQueue {q x : RumbleRequest} {l : List RumbleRequest} : x ∈ joinQueue q l ↔ x = q ∨ x ∈ l := by
  induction l with
  | nil => simp [joinQueue]
  | cons y rest ih =>
    simp only [joinQueue]
    split
    · simp
    · simp only [List.mem_cons, ih]; tauto

theorem joinQueue_length (q : RumbleRequest) (l : List RumbleRequest) : (joinQueue q l).length = l.length + 1 := by
  induction l with
  | nil => rfl
  | cons y rest ih =>
    simp only [joinQueue]
    split
    · rfl
    · simp [ih]

/-- A request joins a queue in descending priority, and the queue stays so (R159). -/
theorem joinQueue_sorted {q : RumbleRequest} {l : List RumbleRequest}
    (h : l.Pairwise fun a b => b.priority ≤ a.priority) : (joinQueue q l).Pairwise fun a b => b.priority ≤ a.priority := by
  induction l with
  | nil => simp [joinQueue]
  | cons y rest ih =>
    rw [List.pairwise_cons] at h
    simp only [joinQueue]
    split
    · rename_i hlt
      rw [List.pairwise_cons]
      refine ⟨?_, List.pairwise_cons.2 h⟩
      intro x hx
      rcases List.mem_cons.1 hx with rfl | hx
      · exact le_of_lt hlt
      · exact le_trans (h.1 x hx) (le_of_lt hlt)
    · rename_i hge
      rw [List.pairwise_cons]
      refine ⟨?_, ih h.2⟩
      intro x hx
      rcases mem_joinQueue.1 hx with rfl | hx
      · exact not_lt.1 hge
      · exact h.1 x hx

@[simp] theorem Rumble.countLost_current (r : Rumble) (q : RumbleRequest) : (r.countLost q).current = r.current := by
  unfold Rumble.countLost; split <;> rfl
@[simp] theorem Rumble.countLost_queue (r : Rumble) (q : RumbleRequest) : (r.countLost q).queue = r.queue := by
  unfold Rumble.countLost; split <;> rfl
@[simp] theorem Rumble.countLost_patterns (r : Rumble) (q : RumbleRequest) : (r.countLost q).patterns = r.patterns := by
  unfold Rumble.countLost; split <;> rfl
@[simp] theorem Rumble.countLost_supplyLow (r : Rumble) (q : RumbleRequest) :
    (r.countLost q).supplyLow = r.supplyLow := by
  unfold Rumble.countLost; split <;> rfl
@[simp] theorem Rumble.countLost_kick (r : Rumble) (q : RumbleRequest) : (r.countLost q).kick = r.kick := by
  unfold Rumble.countLost; split <;> rfl

/-- Everything a new request can do at the driver, row by row of R158. -/
theorem Rumble.request_cases (r : Rumble) (q : RumbleRequest) :
    (r.quiet = true ∧ q.origin = .cue ∧ r.request q = (r, .quiet)) ∨
    (r.loaded q.pattern = false ∧ r.request q = (r, .noPattern)) ∨
    (r.loaded q.pattern = true ∧
      ((r.current = none ∧ r.request q = ({ r with current := some q.asCurrent }, .began)) ∨
       ∃ c, r.current = some c ∧
        ((c.request.priority < q.priority ∧
            r.request q = ({ r with current := some q.asCurrent, kick := false }, .preempted c.request)) ∨
         (¬ c.request.priority < q.priority ∧ r.queue.length < Config.waitingCapacity ∧
            r.request q = ({ r with queue := joinQueue q r.queue }, .queued)) ∨
         (¬ c.request.priority < q.priority ∧ Config.waitingCapacity ≤ r.queue.length ∧
            ((∃ last, r.queue.getLast? = some last ∧ last.priority < q.priority ∧
                r.request q = ({ (r.countLost last) with queue := joinQueue q r.queue.dropLast }, .displaced last)) ∨
             r.request q = (r.countLost q, .queueFull)))))) := by
  unfold Rumble.request
  by_cases h1 : (r.quiet && q.origin == .cue) = true
  · left
    simp only [Bool.and_eq_true, beq_iff_eq] at h1
    exact ⟨h1.1, h1.2, by simp [h1]⟩
  · right
    by_cases h2 : r.loaded q.pattern = true
    · right
      refine ⟨h2, ?_⟩
      simp only [h1, Bool.false_eq_true, if_false, h2, Bool.not_true]
      cases hc : r.current with
      | none => left; simp
      | some c =>
        right
        refine ⟨c, rfl, ?_⟩
        by_cases h3 : c.request.priority < q.priority
        · left; exact ⟨h3, by simp [h3]⟩
        · right
          by_cases h4 : r.queue.length < Config.waitingCapacity
          · left; exact ⟨h3, h4, by simp [h3, h4]⟩
          · right
            refine ⟨h3, by omega, ?_⟩
            simp only [h3, if_false, h4]
            cases hl : r.queue.getLast? with
            | none => right; rfl
            | some last =>
              by_cases h5 : last.priority < q.priority
              · left; exact ⟨last, rfl, h5, by simp [h5]⟩
              · right; simp [h5]
    · left
      have h2' : r.loaded q.pattern = false := by simpa using h2
      exact ⟨h2', by simp [h1, h2']⟩

/-- A step start changes the current request and the kick mark alone. -/
theorem Rumble.startStep_keeps (r : Rumble) (d : Nat) (q : RumbleRequest) (n : Nat) (p : Plays) :
    (r.startStep d q n p).patterns = r.patterns ∧ (r.startStep d q n p).queue = r.queue ∧
      (r.startStep d q n p).supplyLow = r.supplyLow ∧ (r.startStep d q n p).ceiling = r.ceiling ∧
      (r.startStep d q n p).quiet = r.quiet ∧ (r.startStep d q n p).strength = r.strength ∧
      (r.startStep d q n p).kickSetting = r.kickSetting ∧ (r.startStep d q n p).droppedCues = r.droppedCues := by
  simp [Rumble.startStep]

/-- A step start of a step of the pattern is what the statements call the beginning of that step. -/
theorem Rumble.startStep_begins {r : Rumble} {q : RumbleRequest} {n : Nat} {step : RumbleStep}
    (h : (r.patterns.get q.pattern).steps[n]? = some step) (d : Nat) (p : Plays) :
    r.startStep d q n p = r.begins d q step n p := by
  have hs : (r.patterns.get q.pattern).stepAt n = step := by simp [Pattern.stepAt, List.getD, h]
  simp only [Rumble.startStep, Rumble.begins, hs, requestedDuty]
  congr 1
  rw [Bool.eq_iff_iff]
  simp only [Bool.and_eq_true, beq_iff_eq, bne_iff_ne, decide_eq_true_eq, ne_eq, and_assoc]
  refine and_congr_right fun _ => and_congr_right fun _ => ?_
  omega

/-- A rumble unit changes the current request, the queue and the kick mark alone. -/
theorem Rumble.unit_keeps (r : Rumble) :
    r.unit.patterns = r.patterns ∧ r.unit.supplyLow = r.supplyLow ∧ r.unit.ceiling = r.ceiling ∧
      r.unit.quiet = r.quiet ∧ r.unit.strength = r.strength ∧ r.unit.kickSetting = r.kickSetting ∧
      r.unit.droppedCues = r.droppedCues := by
  simp only [Rumble.unit, Rumble.startRequest, Rumble.endStep, Rumble.finish, Rumble.startStep]
  (repeat' split) <;> simp

end Sys2Proof.Machine
end

