-- ==== Sys2Proof/Laws/Sound.lean ====
section
/-! SUPPORT. The laws of a voice: what an arrival, an envelope step and a sound tick can make of it, and the ranges of its
output. -/

namespace Sys2Proof.Machine

open Sys2Proof

/-- An arrival never overfills the queue (R107, R109). -/
theorem Voice.enqueue_length {v : Voice} (h : v.queue.length ≤ Config.queueCapacity) (notes : List Note) :
    (v.enqueue notes).queue.length = min Config.queueCapacity (v.queue.length + notes.length) := by
  simp [Voice.enqueue]; omega

/-- The envelope moves the pace counter and the volume alone (R115). -/
theorem Voice.envelope_keeps (v : Voice) :
    v.envelope.state = v.state ∧ v.envelope.queue = v.queue ∧ v.envelope.current = v.current ∧
      v.envelope.spent = v.spent ∧ v.envelope.lengthCounter = v.lengthCounter ∧ v.envelope.phase = v.phase ∧
      v.envelope.noise = v.noise ∧ v.envelope.startMark = v.startMark ∧ v.envelope.group = v.group ∧
      v.envelope.conditioning = v.conditioning ∧ v.envelope.refill = v.refill := by
  unfold Voice.envelope
  (repeat' split) <;> simp

/-- The length step moves the length counter alone (R115). -/
theorem Voice.lengthStep_keeps (v : Voice) :
    v.lengthStep.1 = v ∨ v.lengthStep.1 = { v with lengthCounter := v.lengthCounter - 1 } := by
  unfold Voice.lengthStep
  (repeat' split) <;> simp

/-- A frame moves the phase accumulator and the noise register alone (R128). -/
theorem Voice.advance_keeps (v : Voice) :
    v.advance.state = v.state ∧ v.advance.queue = v.queue ∧ v.advance.current = v.current ∧
      v.advance.spent = v.spent ∧ v.advance.lengthCounter = v.lengthCounter ∧
      v.advance.paceCounter = v.paceCounter ∧ v.advance.volume = v.volume ∧ v.advance.startMark = v.startMark ∧
      v.advance.group = v.group ∧ v.advance.conditioning = v.conditioning ∧ v.advance.refill = v.refill := by
  unfold Voice.advance
  split <;> simp

/-- Taking the next entry keeps a voice's settings. -/
theorem Voice.takeNext_settings (v : Voice) :
    v.takeNext.voice.group = v.group ∧ v.takeNext.voice.conditioning = v.conditioning ∧
      v.takeNext.voice.refill = v.refill := by
  unfold Voice.takeNext
  split <;> simp [Voice.becomeCurrent]

/-- The length step keeps a voice's settings. -/
theorem Voice.lengthStep_settings (v : Voice) :
    v.lengthStep.1.group = v.group ∧ v.lengthStep.1.conditioning = v.conditioning ∧
      v.lengthStep.1.refill = v.refill := by
  rcases Voice.lengthStep_keeps v with h | h <;> rw [h] <;> exact ⟨rfl, rfl, rfl⟩

/-- A voice keeps its settings through a sound tick. -/
theorem Voice.progress_settings (v : Voice) :
    v.progress.voice.group = v.group ∧ v.progress.voice.conditioning = v.conditioning ∧
      v.progress.voice.refill = v.refill := by
  have settings : ∀ w : Voice, w.envelope.group = w.group ∧ w.envelope.conditioning = w.conditioning ∧
      w.envelope.refill = w.refill := fun w => (Voice.envelope_keeps w).2.2.2.2.2.2.2.2
  unfold Voice.progress
  split
  · split
    · exact Voice.takeNext_settings _
    · exact ⟨rfl, rfl, rfl⟩
  · exact ⟨rfl, rfl, rfl⟩
  · exact settings v
  · dsimp only
    have h1 := Voice.lengthStep_settings v
    have h2 := settings v.lengthStep.1
    split
    · have h3 := Voice.takeNext_settings v.lengthStep.1.envelope
      rw [h3.1, h3.2.1, h3.2.2, h2.1, h2.2.1, h2.2.2]
      exact h1
    · rw [h2.1, h2.2.1, h2.2.2]
      exact h1

/-- A HELD voice does not progress (R112). -/
theorem Voice.progress_held {v : Voice} {p : PriorState} (h : v.state = .held p) :
    v.progress = { voice := v, began := none, starved := false } := by
  unfold Voice.progress; rw [h]

/-- A frame's count of clipped frames stays in its range (R140). -/
theorem Sound.afterFrame_clipped {so : Sound} (h : so.clipped ≤ Config.maxClipped) (format : SlotFormat) :
    (so.afterFrame format).clipped ≤ Config.maxClipped := by
  simp only [Sound.afterFrame]
  split
  · exact Nat.min_le_left _ _
  · exact h

/-- Markers delivered never make the list longer than 8 (R120). -/
theorem Sound.deliver_length {so : Sound} (h : so.markers.length ≤ Config.markerCapacity) (ids : List Byte) :
    (so.deliver ids).markers.length ≤ Config.markerCapacity := by
  simp [Sound.deliver]; omega

end Sys2Proof.Machine
end

