-- ==== Sys2Proof/Tests/Slice0.lean ====
section
/-! SUPPORT. The model's own tests: the refusals of well-formedness, one or two steps of every command on small states with
the manual's worked values where it gives them, and for every statement with hypotheses a state and operands that meet them
(theorems named test_hyps_…), at the boundaries of its clauses. -/

namespace Sys2Proof.Tests

open Sys2Proof Sys2Proof.Machine

-- One theorem at a time: a kernel evaluation waits for those before it, and would hold a thread while it waits.
set_option Elab.async false

/-! ### Helpers -/

/-- The step gives a next state, of which a condition holds. -/
def after (o : Host.Outcome State Fault Refusal) (p : State → Bool) : Bool :=
  match o with
  | .next t => p t
  | .fault _ => false
  | .refused _ => false

/-- The step gives a next state. -/
def completes (o : Host.Outcome State Fault Refusal) : Bool := after o fun _ => true

/-- The request is answered with a result and data, and the window is DONE. -/
def gives (c : Instr) (s : State) (r : Result) (data : List Byte) : Bool :=
  after (exec c s) fun t => t.window.state == .done && t.window.answer.items.take (data.length + 1) == r.code :: data

/-- The part in RUN, everything else as right after a cell reset. -/
def up : State := { State.reset with power := { State.reset.power with main := .run } }

/-- The part in DOZE. -/
def dozing : State :=
  { State.reset with
    power := { State.reset.power with main := .doze }
    sound := { Sound.reset with master := 0, savedMaster := some 7 }
    rumble := { Rumble.reset with quiet := true } }

/-- A window with a request in hand. -/
def busyWith (w : Work) (s : State) : State := { s with window := { s.window with work := some w } }

/-- nCRST held asserted. -/
def held : State := { up with power := { up.power with resetHeld := true } }

/-- A LIVE record of 64 bytes at the last generation, with one counter at 97 in [0, 99]. -/
def record5 : Entry :=
  { key := 5, length := 64, blocks := [0], generation := 65535, check := recordCheck 5 64 (List.replicate 64 0),
    damage := false, audited := false, counters := [{ value := 97, floor := 0, ceiling := 99 }], shadow := none }

/-- An OPEN record of 65 bytes whose new length is 66. -/
def record7 : Entry :=
  { key := 7, length := 65, blocks := [1, 2], generation := 0, check := 0x1234, damage := false, audited := true,
    counters := [], shadow := some { newLength := 66, blocks := [3, 4], copyIn := true } }

/-- The part in RUN with a LIVE record under key 5 and an OPEN one under key 7, and one byte of keep memory written. -/
def stocked : State :=
  { up with store := { up.store with catalog := [record5, record7], memory := [(70, 0xAB)], keepLost := false } }

/-- The same store with the audit in progress. -/
def auditing : State := { stocked with store := { stocked.store with auditFlag := true } }

/-! ### Well-formedness -/

theorem test_wellFormed_unknown_refuses_a_request_code : (Instr.unknown 1).wellFormed = false := by decide

theorem test_wellFormed_unknown_refuses_the_last_request_code : (Instr.unknown 112).wellFormed = false := by decide

theorem test_wellFormed_unknown_accepts_a_free_code :
    (Instr.unknown 0).wellFormed = true ∧ (Instr.unknown 51).wellFormed = true := by decide

theorem test_wellFormed_windowWrite_refuses_offset_0 : (Instr.windowWrite 0 5).wellFormed = false := by decide

theorem test_wellFormed_windowWrite_accepts_1_to_127 :
    (Instr.windowWrite 1 5).wellFormed = true ∧ (Instr.windowWrite 127 5).wellFormed = true := by decide

theorem test_no_word_spells_a_command : decodeTableWord 8 1 = none := rfl

/-! ### Queue, window, general requests -/

theorem test_step_takes_the_front_command :
    after (step { up with pending := [.identify, .readClock] }) (fun t => t.pending == [.readClock]) = true := by
  decide +kernel

theorem test_step_idles : after (step up) (fun t => t == up) = true := by decide +kernel

theorem test_hyps_StepExecutesFrontCommand :
    ({ up with pending := [.identify] } : State).pending = .identify :: [] ∧ up.pending = [] := by decide

theorem test_hyps_SubmitsNotServed :
    (requestBytes .identify ≠ [] ∧ Instr.identify.wellFormed = true) ∧ State.reset.power.main = .off ∧
      held.power.resetHeld = true ∧
      ((busyWith .quiesce up).power.main ≠ .off ∧ (busyWith .quiesce up).power.resetHeld = false ∧
        (busyWith .quiesce up).window.work ≠ none) ∧
      up.Accepts ∧ (0 : Byte) ∉ requestCodes ∧ (255 : Byte) ∉ requestCodes := by decide +kernel

theorem test_submit_in_off_and_in_reset_does_nothing :
    after (exec .identify State.reset) (fun t => t == State.reset) = true ∧
      after (exec .identify held) (fun t => t == held) = true := by decide +kernel

theorem test_submit_to_a_busy_window_is_an_overrun :
    after (exec .identify (busyWith .quiesce up)) (fun t => t.window.overrun && t.window.busy) = true := by
  decide +kernel

theorem test_overrun : after (exec .overrun (busyWith .quiesce up)) (fun t => t.window.overrun) = true := by
  decide +kernel

theorem test_unknown : gives (.unknown 51) up .unknown [] = true := by decide +kernel

theorem test_hyps_SubmitIsTakenInRun :
    up.Accepts ∧ dozing.Accepts ∧ (requestBytes .identify).length ≤ 31 ∧
      (requestBytes (.create 1 1 0 0 ⟨0, 0, 0⟩ ⟨0, 0, 0⟩ ⟨0, 0, 0⟩ ⟨0, 0, 0⟩)).length = 31 := by decide +kernel

theorem test_a_submit_wakes_the_part :
    after (exec .readStatus dozing)
      (fun t => t.power.main == .run && t.sound.master == 7 && t.sound.savedMaster == none && !t.rumble.quiet) = true := by
  decide +kernel

theorem test_hyps_WindowAsTheConsoleReadsIt :
    State.reset.power.main = .off ∧ up.power.main ≠ .off ∧ (busyWith .quiesce up).window.work ≠ none ∧
      up.window.work = none ∧
      ({ up with notices := { up.notices with rumble := ⟨true, true⟩ } } : State).pendingMask.getLsbD 7 = true ∧
      (∀ m : Fin 8, m < 7 →
        ({ up with notices := { up.notices with rumble := ⟨true, true⟩ } } : State).pendingMask.getLsbD m.val = false) ∧
      ({ up with notices := { up.notices with power := ⟨true, false, false, false⟩ } } : State).pendingMask.getLsbD 0 =
        true ∧
      (List.replicate 31 (0 : Byte)).length ≤ 31 ∧ up.pendingMask = 0 ∧ (0 : Fin 64).val < [(9 : Byte)].length ∧
      [(9 : Byte)].length ≤ (1 : Fin 64).val := by decide +kernel

theorem test_window_reads_at_the_bounds :
    State.reset.windowRead 0 = none ∧ (busyWith .quiesce up).windowRead 0 = some 0x40 ∧ up.windowRead 0 = some 0 ∧
      up.windowRead 31 = some 0 ∧ (busyWith .quiesce up).windowRead 32 = some 0 ∧
      ({ up with window := { up.window with buffer := up.window.buffer.set 63 9 } } : State).windowRead 127 = some 9 := by
  decide +kernel

theorem test_hyps_WindowWriteStoresOneByte :
    (1 : BitVec 7) ≠ 0 ∧ (127 : BitVec 7) ≠ 0 ∧ up.Accepts ∧ dozing.Accepts ∧ ¬ State.reset.Accepts ∧ ¬ held.Accepts ∧
      ¬ (busyWith .quiesce up).Accepts := by decide +kernel

theorem test_windowWrite_at_the_ends_of_the_areas :
    after (exec (.windowWrite 1 9) up) (fun t => t.window.request.get 0 == 9) = true ∧
      after (exec (.windowWrite 31 9) up) (fun t => t.window.request.get 30 == 9) = true ∧
      after (exec (.windowWrite 32 9) up) (fun t => t == up) = true ∧
      after (exec (.windowWrite 63 9) up) (fun t => t == up) = true ∧
      after (exec (.windowWrite 64 9) up) (fun t => t.window.buffer.get 0 == 9) = true ∧
      after (exec (.windowWrite 127 9) up) (fun t => t.window.buffer.get 63 == 9) = true := by decide +kernel

theorem test_hyps_IdentityAndStatus :
    up.Accepts ∧ (up.serving .readStatus).pendingMask = 0 ∧
      (({ up with notices := { up.notices with rumble := ⟨true, true⟩ } } : State).serving .readStatus).pendingMask.getLsbD
        7 = true := by decide +kernel

theorem test_identify : gives .identify up .ok [0x5D, 0x1A, 0x0C, 0x24, 1, 4, 0, 96, 48, 8, 16] = true := by
  decide +kernel

theorem test_readStatus : gives .readStatus stocked .ok [0, 0, 0, 0, 0, 0, 0, 1, 0] = true := by decide +kernel

/-- The part with KEEP pending for its lost contents, and RUMBLE pending. -/
def noticing : State :=
  { up with
    notices := { up.notices with keep := ⟨true, false, true, false, false⟩, rumble := ⟨true, true⟩, enable := 0x80 } }

theorem test_hyps_NoticeRequests :
    noticing.Accepts ∧ (noticing.serving (.ackNotice 0xFF)).pendingMask = 0x82 ∧
      ((0xFF : Byte) &&& 0x8F &&& (noticing.serving (.ackNotice 0xFF)).pendingMask) = 0x82 ∧
      (∀ v : VoiceNo, (0 : Byte).getLsbD v.val = true ↔
        ((noticing.sound.voices.get v).state = .playing ∨ (noticing.sound.voices.get v).state = .starved) ∧
          0 < (noticing.sound.voices.get v).refill ∧
            (noticing.sound.voices.get v).queue.length < (noticing.sound.voices.get v).refill) := by decide +kernel

theorem test_ackNotice : gives (.ackNotice 0x02) noticing .ok [2, 0, 2, 0, 0, 0, 0, 0, 0, 0, 0, 0x80] = true := by
  decide +kernel

theorem test_ackNotice_keeps_level_causes :
    gives (.ackNotice 0xFF) { up with sound := { up.sound with markers := [3] } } .ok
      [0, 0, 0, 0, 0, 0, 0, 0, 0, 0, 0, 0x40] = true := by decide +kernel

theorem test_setNoticeMask : gives (.setNoticeMask 0x02) noticing .ok [0x80, 0x02, 0x82, 1] = true := by decide +kernel

theorem test_readNotices :
    gives .readNotices noticing .ok [0x82, 0x80, 0, 2, 0, 0, 0, 0, 0, 0, 0, 1] = true := by decide +kernel

theorem test_the_notice_line : noticing.noticeLine = true ∧ up.noticeLine = false := by decide +kernel

/-- A link in SLAVE with its reference at 1000. -/
def slaved : State :=
  { up with link := { up.link with state := .slave, reference := some 1000, ownLast := some 100 } }

theorem test_hyps_SoftResetRests :
    slaved.Accepts ∧ slaved.link.state = .slave ∧ slaved.link.reference = some 1000 ∧ 16625 ≤ 1000 + 15625 ∧
      1000 + 15625 < 16626 ∧ up.Accepts ∧ up.link.state ≠ .slave := by decide +kernel

theorem test_softReset :
    after (exec (.softReset 16625) slaved)
      (fun t => t.link.state == .seeking && t.link.ownNext == 16625 && t.link.framesSent == 0) = true := by
  decide +kernel

theorem test_softReset_after_the_period_makes_a_frame_instant :
    after (exec (.softReset 16626) slaved) (fun t => t.link.state == .seeking && t.link.framesSent == 1) = true := by
  simp only [exec, execSoftReset, State.softReset, State.softResetSoundAndLink, submit]
  generalize Config.softResetLinkFirst _ = first
  cases first <;> decide +kernel

/-! ### The record store -/

theorem test_hyps_FreeBlocksAndTheirSelection :
    stocked.store.Wf ∧ stocked.store.freeBlocks.length = 1019 ∧ 1019 ≤ stocked.store.freeBlocks.length := by
  decide +kernel

theorem test_lowest_free_blocks : stocked.store.lowestFree 2 = [5, 6] := by decide +kernel

/-- A counter specification of all zeros. -/
def noSpec : CounterSpec := ⟨0, 0, 0⟩

/-- A catalog of the 96 keys 1 to 96. -/
def crowded : State :=
  { up with store := { up.store with catalog := (List.range 96).map fun k => { record5 with key := k + 1, blocks := [] } } }

/-- A store with every block in use. -/
def packed : State :=
  { up with store := { up.store with catalog := [{ record5 with blocks := List.finRange 1024 }] } }

theorem packed_freeBlocks : packed.store.freeBlocks = [] := by
  simp [Store.freeBlocks, Store.usedBlocks, packed]

theorem test_hyps_CreateThenEntryStep :
    (stocked.Accepts ∧ stocked.MemoryWf) ∧ (crowded.Accepts ∧ crowded.MemoryWf ∧ 96 ≤ crowded.store.catalog.length) ∧
      (busyWith (.create 1 1 [5] 0x5489 []) stocked).window.work = some (.create 1 1 [5] 0x5489 []) ∧
      stocked.store.catalog.Pairwise (fun a b => a.key < b.key) ∧
      (∀ x ∈ stocked.store.catalog, x.key ≠ { record5 with key := 6 }.key) := by decide +kernel

theorem test_hyps_no_space :
    packed.Accepts ∧ packed.MemoryWf ∧ packed.store.catalog.length < 96 ∧ packed.store.find 6 = none ∧
      packed.store.freeBlocks.length < (1 + 63) / 64 ∧ packed.store.lacksSpace 1 = true := by
  refine ⟨by decide +kernel, by decide +kernel, by decide +kernel, by decide +kernel, ?_, ?_⟩
  · rw [packed_freeBlocks]; decide
  · rw [Store.lacksSpace, Store.lowestFree, packed_freeBlocks]; decide

theorem test_create_refusals :
    gives (.create 0 1 0 0 noSpec noSpec noSpec noSpec) stocked .range [] = true ∧
      gives (.create 1 1025 0 0 noSpec noSpec noSpec noSpec) stocked .range [] = true ∧
      gives (.create 1 1 0 5 noSpec noSpec noSpec noSpec) stocked .range [] = true ∧
      gives (.create 1 1 0 1 ⟨1, 0, 0⟩ noSpec noSpec noSpec) stocked .range [] = true ∧
      gives (.create 5 1 0 0 noSpec noSpec noSpec noSpec) stocked .existsAlready [] = true ∧
      gives (.create 200 1 0 0 noSpec noSpec noSpec noSpec) crowded .catalogFull [] = true := by decide +kernel

theorem test_create_holds_its_work :
    after (exec (.create 1 1 0 1 ⟨0, 99, 200⟩ noSpec noSpec noSpec) stocked)
      (fun t => t.window.work == some (.create 1 1 [5] 0x5489 [⟨99, 0, 99⟩])) = true := by decide +kernel

theorem test_entryStep :
    gives .entryStep (busyWith (.create 6 1 [5] 0x5489 []) stocked) .ok [0, 6, 1, 0, 0, 0x54, 0x89] = true ∧
      after (exec .entryStep (busyWith (.create 6 1 [5] 0x5489 []) stocked))
        (fun t => t.store.catalog.map Entry.key == [5, 6, 7]) = true := by decide +kernel

theorem test_recordCheck_worked_value :
    recordCheck 1 1 [0] = 0x5489 ∧ crcByte 0xFFFF 0 = 0xE1F0 ∧ crcByte 0xE1F0 1 = 0x0D2E := by decide +kernel

/-- READ-PIECE of key 5 in its verification. -/
def reading : State := busyWith (.readVerify 5 0 64) auditing

/-- OPEN-CHANGE of key 5 in its verification. -/
def opening : State := busyWith (.openVerify 5 65 true) auditing

theorem test_hyps_VerificationByTheRecordCheck :
    (reading.StoreWf ∧ reading.MemoryWf ∧ reading.store.find 5 = some record5 ∧
      reading.window.work = some (.readVerify 5 0 64)) ∧
    (opening.StoreWf ∧ opening.MemoryWf ∧ opening.store.find 5 = some record5 ∧
      opening.window.work = some (.openVerify 5 65 true)) := by
  refine ⟨⟨⟨by decide +kernel, ?_⟩, by decide +kernel⟩, ⟨⟨by decide +kernel, ?_⟩, by decide +kernel⟩⟩
  · intro w h
    cases h
    exact (by decide +kernel : ∃ e ∈ reading.store.catalog, e.key = 5 ∧ 0 + 64 ≤ e.length)
  · intro w h
    cases h
    exact (by decide +kernel :
      GoodLength 65 ∧ opening.store.CanOpen 5 ∧ blocksFor 65 ≤ opening.store.freeBlocks.length)

theorem test_verification :
    gives .verification reading .ok [0, 5, 0, 0, 64, 0, 255, 255, 0] = true ∧
      after (exec .verification opening)
        (fun t => t.window.work == some (.openFill 5 65 true [5, 6]) &&
          t.store.catalog.map Entry.audited == [true, true]) = true := by decide +kernel

theorem test_verification_finds_damage :
    gives .verification { reading with store := { reading.store with memory := [(0, 1)] } } .ok
      [0, 5, 0, 0, 64, 0, 255, 255, 1] = true := by decide +kernel

theorem test_hyps_CatalogReaders :
    stocked.Accepts ∧ stocked.store.find 5 = some record5 ∧ stocked.store.find 6 = none ∧
      stocked.store.catalog.filter (fun e => decide (0 < e.key)) = [record5, record7] := by decide +kernel

theorem test_info : gives (.info 7) stocked .ok [1, 0, 65, 0, 0, 0, 1, 0, 2, 0, 66, 1] = true := by decide +kernel

theorem test_list :
    gives (.list 5) stocked .ok [1, 0, 7, 0] = true ∧
      after (exec (.list 5) stocked) (fun t => t.window.buffer.items.take 8 == [0, 7, 0, 65, 0, 0, 0xA0, 0]) = true := by
  decide +kernel

theorem test_storeSpace : gives .storeSpace stocked .ok [3, 251, 2, 1] = true := by decide +kernel

theorem test_hyps_RetireThenAnswer :
    stocked.Accepts ∧ stocked.store.find 5 = some record5 ∧ record5.shadow = none ∧
      stocked.store.find 7 = some record7 ∧ record7.shadow ≠ none ∧
      (busyWith (.retire 5 1) up).window.work = some (.retire 5 1) := by decide +kernel

theorem test_retire :
    after (exec (.retire 5) stocked)
        (fun t => t.store.catalog.map Entry.key == [7] && t.window.work == some (.retire 5 1)) = true ∧
      gives (.retire 7) stocked .isOpen [] = true := by decide +kernel

theorem test_retireAnswer :
    gives .retireAnswer (busyWith (.retire 5 1) up) .ok [1] = true ∧
      after (exec .retireAnswer
        (busyWith (.retire 5 1) { up with engine := { up.engine with tends := [⟨0, 1, 5, 0, 1⟩] } }))
        (fun t => t.window.busy) = true := by decide +kernel

/-- Four OPEN records beside the LIVE one under key 5. -/
def fourOpen : State :=
  { up with
    store :=
      { up.store with
        catalog :=
          [record5, { record7 with key := 6 }, record7, { record7 with key := 8 }, { record7 with key := 9 }] } }

theorem test_hyps_OpenChangeStages :
    (stocked.Accepts ∧ stocked.MemoryWf ∧ stocked.store.find 5 = some record5 ∧ stocked.store.find 6 = none) ∧
      (fourOpen.Accepts ∧ fourOpen.MemoryWf ∧ fourOpen.store.find 5 = some record5 ∧
        4 ≤ fourOpen.store.catalog.countP fun e => e.shadow.isSome) ∧
      (auditing.Accepts ∧ auditing.MemoryWf ∧ auditing.store.auditFlag = true ∧ record5.audited = false) ∧
      (busyWith (.openFill 5 65 false [5, 6]) stocked).window.work = some (.openFill 5 65 false [5, 6]) := by
  decide +kernel

theorem test_openChange :
    gives (.openChange 5 1025 0) stocked .range [] = true ∧ gives (.openChange 6 1024 0) stocked .noRecord [] = true ∧
      gives (.openChange 7 1 0) stocked .isOpen [] = true ∧ gives (.openChange 5 1 0) fourOpen .openLimit [] = true := by decide +kernel

theorem test_openChange_fills_or_verifies :
    after (exec (.openChange 5 65 0) stocked) (fun t => t.window.work == some (.openFill 5 65 false [5, 6])) = true ∧
      after (exec (.openChange 5 65 1) auditing) (fun t => t.window.work == some (.openVerify 5 65 true)) = true := by
  decide +kernel

theorem test_openChangeEntry :
    gives .openChangeEntry (busyWith (.openFill 5 65 false [5, 6]) stocked) .ok [0, 5, 0, 65, 2, 0, 255, 255, 0] =
      true := by decide +kernel

/-- The stocked part with a transfer buffer of nines. -/
def writing : State := { stocked with window := { stocked.window with buffer := Table.fill 64 9 } }

theorem stocked_storeWf : stocked.StoreWf := ⟨by decide +kernel, by intro w h; cases h⟩

theorem test_hyps_WritePieceWrites :
    (writing.Accepts ∧ writing.MemoryWf ∧ writing.StoreWf) ∧ writing.store.find 7 = some record7 ∧
      writing.store.find 5 = some record5 ∧ writing.store.find 6 = none :=
  ⟨⟨by decide +kernel, by decide +kernel, by decide +kernel, by intro w h; cases h⟩, by decide +kernel⟩

theorem test_writePiece :
    gives (.writePiece 7 2 64) writing .ok [0, 7, 0, 2, 64] = true ∧
      after (exec (.writePiece 7 2 64) writing)
        (fun t => Memory.read t.store.memory 194 == 9 && Memory.read t.store.memory 257 == 9 &&
          Memory.read t.store.memory 193 == 0 && Memory.read t.store.memory 258 == 0) = true := by decide +kernel

theorem test_writePiece_refusals :
    gives (.writePiece 7 3 64) writing .range [] = true ∧ gives (.writePiece 7 0 65) writing .range [] = true ∧
      gives (.writePiece 5 0 1) writing .notOpen [] = true ∧ gives (.writePiece 6 0 1) writing .noRecord [] = true := by
  decide +kernel

theorem test_hyps_ReadPieceDeliversOrVerifies :
    stocked.Accepts ∧ stocked.store.find 7 = some record7 ∧ auditing.Accepts ∧ auditing.store.auditFlag = true ∧
      auditing.store.find 5 = some record5 ∧ record5.audited = false ∧ record5.shadow = none := by decide +kernel

theorem test_readPiece :
    gives (.readPiece 7 1 64 0) stocked .ok [0, 7, 0, 1, 64, 0, 0, 0, 0] = true ∧
      after (exec (.readPiece 7 1 64 0) stocked) (fun t => t.window.buffer.get 5 == 0xAB) = true ∧
      gives (.readPiece 7 0 64 1) stocked .ok [0, 7, 0, 0, 64, 1, 0, 0, 0] = true := by decide +kernel

theorem test_readPiece_verifies_or_refuses :
    after (exec (.readPiece 7 0 64 0) stocked) (fun t => t.window.work == some (.readVerify 7 0 64)) = true ∧
      after (exec (.readPiece 5 1 63 0) auditing) (fun t => t.window.work == some (.readVerify 5 1 63)) = true ∧
      gives (.readPiece 5 0 1 1) stocked .notOpen [] = true ∧ gives (.readPiece 5 1 64 0) stocked .range [] = true := by
  decide +kernel

/-- The commits of the change of key 7 in hand. -/
def closing : State := busyWith (.close 7 0xBEEF) stocked

/-- The commit of every open change in hand. -/
def closingAll : State := busyWith (.closeAll [(7, 0xBEEF)]) stocked

theorem test_hyps_CommitAndAbandonRequests :
    (stocked.Accepts ∧ stocked.store.find 7 = some record7 ∧ stocked.store.find 5 = some record5 ∧
      up.Accepts ∧ (∀ e ∈ up.store.catalog, e.shadow = none) ∧ (∃ e ∈ stocked.store.catalog, e.shadow ≠ none)) ∧
    (closing.StoreWf ∧ closing.window.work = some (.close 7 0xBEEF)) ∧
    (closingAll.StoreWf ∧ closingAll.window.work = some (.closeAll [(7, 0xBEEF)])) := by
  refine ⟨by decide +kernel, ⟨⟨by decide +kernel, ?_⟩, by decide +kernel⟩, ⟨⟨by decide +kernel, ?_⟩, by decide +kernel⟩⟩
  · intro w h
    cases h
    exact (by decide +kernel : ∃ e ∈ closing.store.catalog, e.key = 7 ∧ e.isOpen = true)
  · intro w h
    cases h
    exact (by decide +kernel : [7] = (closingAll.store.catalog.filter Entry.isOpen).map Entry.key)

theorem test_closeChange :
    after (exec (.closeChange 7) stocked)
        (fun t => t.window.work == some (.close 7 (recordCheck 7 66 (List.replicate 66 0)))) = true ∧
      gives (.closeChange 5) stocked .notOpen [] = true := by decide +kernel

theorem test_closeAll :
    gives .closeAll up .ok [0] = true ∧
      after (exec .closeAll stocked)
        (fun t => t.window.work == some (.closeAll [(7, recordCheck 7 66 (List.replicate 66 0))])) = true := by
  decide +kernel

theorem test_swapStage :
    gives .swapStage closing .ok [0, 7, 0, 1, 0, 66, 0xBE, 0xEF, 2, 2] = true ∧
      gives .swapStage closingAll .ok [1, 0, 7, 0, 1] = true := by decide +kernel

theorem test_abandonChange :
    gives (.abandonChange 7) stocked .ok [0, 7, 2] = true ∧ gives (.abandonChange 5) stocked .notOpen [] = true := by
  decide +kernel

theorem test_hyps_AuditStepsThroughTheCatalog :
    auditing.StoreWf ∧ auditing.store.auditFlag = true ∧ auditing.power.main ≠ .off ∧ auditing.window.work = none ∧
      record5 ∈ auditing.store.catalog ∧ auditing.store.auditPosition < record5.key ∧
      (∀ x ∈ auditing.store.catalog, auditing.store.auditPosition < x.key → record5.key ≤ x.key) ∧
      (∀ x ∈ ({ auditing with store := { auditing.store with auditPosition := 7 } } : State).store.catalog,
        x.key ≤ ({ auditing with store := { auditing.store with auditPosition := 7 } } : State).store.auditPosition) :=
  ⟨⟨by decide +kernel, by intro w h; cases h⟩, by decide +kernel⟩

theorem test_auditStep :
    after (exec .auditStep auditing)
        (fun t => t.store.auditPosition == 5 && t.store.catalog.map Entry.audited == [true, true]) = true ∧
      after (exec .auditStep { auditing with store := { auditing.store with auditPosition := 7 } })
        (fun t => !t.store.auditFlag) = true := by decide +kernel

theorem test_hyps_CommittedContentsChangeOnlyAtSwap :
    stocked.StoreWf ∧ stocked.MemoryWf ∧ completes (exec (.retire 5) stocked) = true ∧ record7 ∈ stocked.store.catalog ∧
      record7.key ≠ (5 : Half).toNat :=
  ⟨stocked_storeWf, by decide +kernel⟩

theorem test_hyps_RecordStoreKept :
    stocked.StoreWf ∧ stocked.AuditWf ∧ auditing.StoreWf ∧ auditing.AuditWf ∧
      completes (step { stocked with pending := [.openChange 5 65 0] }) = true :=
  ⟨stocked_storeWf, by (intro h; cases h), ⟨by decide +kernel, by (intro w h; cases h)⟩,
    by (intro _; exact ⟨by decide +kernel, by (intro _ _ _ _ h; cases h)⟩), by decide +kernel⟩

theorem test_hyps_MemoryWfKept :
    stocked.MemoryWf ∧ completes (step { stocked with pending := [.openChange 5 65 0] }) = true := by decide +kernel

/-! ### Tended counters -/

/-- The stocked part with the counter of key 5 given. -/
def counting (c : Counter) : State :=
  { stocked with store := { stocked.store with catalog := [{ record5 with counters := [c] }, record7] } }

/-- A tend action of an amount on counter 0 of a key, in flight from slot 2. -/
def tending (key : Nat) (amount : Int) : State :=
  { stocked with engine := { stocked.engine with tends := [⟨2, 300, key, 0, amount⟩] } }

theorem test_hyps_CounterRequests :
    (stocked.Accepts ∧ stocked.StoreWf ∧ stocked.store.find (5 : Half).toNat = some record5 ∧
      stocked.store.find 6 = none ∧ record5.counters[(0 : Byte).toNat]? = some ⟨97, 0, 99⟩ ∧
      record5.counters.length ≤ (1 : Byte).toNat) ∧
    (5 : Half) ≠ 0 ∧ (5 : Half) ≠ 0xFFFF ∧ (0x8000 : Half).toInt < (0x7FFF : Half).toInt ∧
      (97 : Int) = (97 : Half).toInt ∧ (97 : Int) ≠ (96 : Half).toInt :=
  ⟨⟨by decide +kernel, stocked_storeWf, by decide +kernel⟩, by decide +kernel⟩

theorem test_readCounter :
    gives (.readCounter 5 0) stocked .ok [0, 5, 0, 1, 0, 97, 0, 97, 0, 0, 0, 99, 0] = true ∧
      gives (.readCounter 0xFFFF 0) stocked .range [] = true ∧ gives (.readCounter 6 0) stocked .noRecord [] = true ∧
      gives (.readCounter 5 1) stocked .noCounter [1] = true := by decide +kernel

theorem test_adjustCounter :
    gives (.adjustCounter 5 0 25) (counting ⟨90, 0, 99⟩) .ok [0, 5, 0, 1, 0, 90, 0, 99, 0, 0, 0, 99, 1] = true ∧
      gives (.adjustCounter 5 0 (-3)) stocked .ok [0, 5, 0, 1, 0, 97, 0, 94, 0, 0, 0, 99, 0] = true := by decide +kernel

theorem test_setCounter :
    gives (.setCounter 5 0 (-1)) stocked .ok [0, 5, 0, 1, 0, 97, 0, 0, 0, 0, 0, 99, 1] = true := by decide +kernel

theorem test_swapCounter :
    gives (.swapCounter 5 0 97 80) stocked .ok [0, 5, 0, 1, 0, 97, 0, 80, 0, 0, 0, 99, 0] = true ∧
      gives (.swapCounter 5 0 97 80) (counting ⟨99, 0, 99⟩) .mismatch [0, 5, 0, 1, 0, 99, 0, 99, 0, 0, 0, 99, 0] =
        true := by decide +kernel

theorem test_setBounds :
    gives (.setBounds 5 0 0 30) (counting ⟨40, 0, 99⟩) .ok [0, 5, 0, 1, 0, 40, 0, 30, 0, 0, 0, 30, 1] = true ∧
      gives (.setBounds 5 0 1 0) stocked .range [] = true := by decide +kernel

theorem test_hyps_TendActionsAndAnswers :
    ((tending 5 5).power.keepRuns = true ∧ (tending 5 5).engine.tends = ⟨2, 300, 5, 0, 5⟩ :: [] ∧
      (tending 5 5).store.find 5 = some record5 ∧ record5.counters[0]? = some ⟨97, 0, 99⟩) ∧
    ((tending 7 5).store.find 7 = some record7 ∧ record7.counters.length ≤ 0) ∧
    ({ stocked with engine := { stocked.engine with answers := [⟨2, 300, 5, .absent⟩] } } : State).engine.answers =
      ⟨2, 300, 5, .absent⟩ :: [] := by decide +kernel

theorem test_tendAction :
    after (exec .tendAction (tending 5 5))
        (fun t => t.store.catalog.map Entry.counters == [[⟨99, 0, 99⟩], []] && t.engine.tends == [] &&
          t.engine.answers == [⟨2, 300, 5, .applied 99⟩]) = true ∧
      after (exec .tendAction (tending 7 5)) (fun t => t.engine.answers == [⟨2, 300, 7, .absent⟩]) = true := by
  decide +kernel

theorem test_tendAction_at_full_width :
    after (exec .tendAction
        { tending 5 (-4675200) with store := (counting ⟨50, -32768, 32767⟩).store })
      (fun t => t.engine.answers == [⟨2, 300, 5, .applied (-32768)⟩]) = true := by decide +kernel

/-- An event in slot 2 that tends counter 0 of key 5. -/
def tendEvent : Event :=
  { tag := 300, state := .armed, schedule := .daily 8836 1 8836, finished := false, pendingCount := 0, firstDue := 0,
    action := .tend 5 0 1, targetLost := false }

theorem test_tendAnswer :
    after (exec .tendAnswer
        { stocked with
          engine :=
            { stocked.engine with
              slots := stocked.engine.slots.set 2 (some tendEvent), answers := [⟨2, 300, 5, .absent⟩] } })
      (fun t => t.engine.slots.get 2 == some { tendEvent with action := .notify, targetLost := true } &&
        t.engine.answers == []) = true := by decide +kernel

theorem test_hyps_CountersWfKept :
    stocked.CountersWf ∧ completes (step { stocked with pending := [.adjustCounter 5 0 1] }) = true :=
  ⟨⟨by decide +kernel, by (intro w h; cases h)⟩, by decide +kernel⟩

theorem test_hyps_CountersChangeOnlyByTheirRequests :
    stocked.StoreWf ∧ completes (exec (.closeChange 7) stocked) = true ∧ record5 ∈ stocked.store.catalog :=
  ⟨stocked_storeWf, by decide +kernel⟩

/-! ### The calendar -/

/-- The part with the clock set: T, W and D given. -/
def setAt (t : Nat) (w : Int) (d : Nat) : State :=
  { up with
    calendar := { up.calendar with trueSecond := t, wallOffset := w, dayTurn := d, state := .set, minutePhase := t % 60 } }

/-- The night of the manual's worked case: 2024-03-10 21:00:00 with the day turn at 04:00. -/
def evening : State := setAt 1000000 762419600 240

theorem test_hyps_WallDatesConvertBothWays :
    (2000 ≤ 2099 ∧ 31 ≤ daysIn (decide (2099 % 4 = 0)) 12 ∧ daysIn (decide (2024 % 4 = 0)) 2 = 29) ∧
      wallOf ⟨2000, 1, 1, 0, 0, 0⟩ = 0 ∧ wallOf ⟨2099, 12, 31, 23, 59, 59⟩ = 3155759999 := by decide +kernel

theorem test_wall_conversion_worked_value :
    wallOf ⟨2024, 3, 10, 21, 0, 0⟩ = 763419600 ∧ dateOf 763419600 = ⟨2024, 3, 10, 21, 0, 0⟩ := by decide +kernel

theorem test_hyps_GameDayAndWeekday :
    (evening.calendar.Wf ∧ evening.calendar.state = .set) ∧ (setAt 1001 3155758998 0).calendar.Wf ∧
      (setAt 0 0 1439).calendar.Wf := by decide +kernel

theorem test_game_day_worked_values :
    evening.calendar.gameDay = 8836 ∧ evening.calendar.intoDay = 61200 ∧ weekday evening.calendar.gameDay = 6 ∧
      (setAt 0 0 1439).calendar.gameDay = 0 ∧ (setAt 1001 3155758998 0).calendar.gameDay = 36525 := by decide +kernel

theorem test_hyps_CalendarRequests :
    evening.Accepts ∧ evening.calendar.state = .set ∧ up.Accepts ∧ up.calendar.state = .unset ∧
      ¬ 1439 < (1439 : Half).toNat ∧ 1439 < (1440 : Half).toNat := by decide +kernel

theorem test_readClock :
    gives .readClock evening .ok
        [0, 15, 0x42, 0x40, 1, 0, 240, 0, 45, 0x80, 0xDB, 0xD0, 7, 0xE8, 3, 10, 21, 0, 0, 6, 0, 0, 34, 132, 0, 0, 239, 16] =
      true ∧
      gives .readClock up .ok ([0, 0, 0, 0, 0, 0, 0] ++ List.replicate 21 0) = true := by decide +kernel

theorem test_setWall :
    after (exec (.setWall 2024 3 10 21 0 0) { up with calendar := { up.calendar with trueSecond := 1000000, dayTurn := 240 } })
      (fun t => t.calendar.wallOffset == 762419600 && t.calendar.state == .set) = true ∧
      gives (.setWall 2000 1 1 0 0 0) up .ok [0, 0, 0, 0, 0, 0, 0, 0, 0, 0, 0, 0, 0, 0, 0, 0, 1] = true := by
  decide +kernel

theorem test_setWall_names_the_first_bad_field :
    gives (.setWall 1999 1 1 0 0 0) up .range [1] = true ∧ gives (.setWall 2000 13 1 0 0 0) up .range [2] = true ∧
      gives (.setWall 2023 2 29 0 0 0) up .range [3] = true ∧ gives (.setWall 2000 1 1 24 0 0) up .range [4] = true ∧
      gives (.setWall 2000 1 1 23 60 0) up .range [5] = true ∧ gives (.setWall 2000 1 1 23 59 60) up .range [6] = true := by
  decide +kernel

theorem test_setDayTurn :
    gives (.setDayTurn 240) (setAt 1021600 762419600 0) .ok [0, 0, 0, 240, 0, 0, 34, 133, 0, 0, 34, 132] = true ∧
      gives (.setDayTurn 1440) up .range [] = true := by decide +kernel

/-- The part in OFF at the second before a minute event. -/
def sleeping : State :=
  { State.reset with calendar := { State.reset.calendar with trueSecond := 59, minutePhase := 59 } }

/-- The part in OFF with a minute event handed on. -/
def woken : State := { State.reset with calendar := { State.reset.calendar with minutesHanded := 1 } }

theorem test_hyps_SecondAndMinuteEvents :
    up.power.keepRuns = true ∧ sleeping.power.keepRuns = true ∧ woken.power.keepRuns = true ∧
      woken.calendar.minutesHanded = 0 + 1 ∧ woken.power.main = .off ∧ woken.calendar.minuteReadingTaken = false := by
  decide +kernel

theorem test_secondEvent :
    after (exec .secondEvent sleeping)
        (fun t => t.calendar.trueSecond == 60 && t.calendar.minutePhase == 0 && t.calendar.minutesHanded == 1) = true ∧
      after (exec .secondEvent (setAt 1001 3155758998 0))
        (fun t => t.calendar.endMark && t.calendar.wallSecond == 3155759999) = true := by decide +kernel

theorem test_minuteEvent :
    after (exec (.minuteEvent ⟨2899, 3000⟩) woken)
      (fun t => t.calendar.minutesHanded == 0 && t.power.reading == ⟨2899, 3000⟩ && t.power.main == .off) = true := by
  decide +kernel

theorem test_hyps_CalendarKept :
    (evening.calendar.Wf ∧ completes (step { evening with pending := [.secondEvent] }) = true) ∧
      completes (exec .secondEvent evening) = true ∧ evening.calendar.trueSecond ≤ 4294967295 := by decide +kernel

/-! ### Events -/

/-- Two events: a daily one, DUE, in slot 0, that tends a counter, and an elapsed one, ARMED, in slot 47. -/
def dueEvent : Event :=
  { tag := 300, state := .due, schedule := .daily 8836 1 8838, finished := false, pendingCount := 255, firstDue := 1025220,
    action := .tend 5 0 (-128), targetLost := false }

def armedElapsed : Event :=
  { tag := 65535, state := .armed, schedule := .elapsed 2000060 60, finished := false, pendingCount := 0, firstDue := 0,
    action := .notify, targetLost := false }

/-- The stocked part with those two events, in the evening of the worked case. -/
def eventful : State :=
  { stocked with
    calendar := evening.calendar
    engine :=
      { stocked.engine with
        slots := (stocked.engine.slots.set 0 (some dueEvent)).set 47 (some armedElapsed), dueList := [0] } }

theorem eventful_slots (i : Slot) :
    eventful.engine.slots.get i = if i = 0 then some dueEvent else if i = 47 then some armedElapsed else none := by
  revert i; decide +kernel

theorem eventful_tableWf : eventful.engine.TableWf := by
  constructor
  · intro i e he
    rw [eventful_slots] at he
    split_ifs at he
    · cases he
      exact ⟨by decide, by decide, by decide,
        (by decide : GoodDay 8836 ∧ GoodDay 8838 ∧ 1 ≤ 1 ∧ 1 ≤ 255 ∧ (8836 : Int) ≤ 8838 ∧ ((1 : Nat) : Int) ∣ 8838 - 8836),
        by decide, by decide, by decide, (by decide : GoodKey 5 ∧ (-128 : Int) ≤ -128 ∧ (-128 : Int) ≤ 127)⟩
    · cases he
      exact ⟨by decide, by decide, by decide, (by decide : 1 ≤ 2000060 ∧ 2000060 ≤ 4311744510 ∧ 60 ≤ 16777215), by decide,
        by decide, by decide, trivial⟩
    · cases he
  · intro i j e he f hf heq
    rw [eventful_slots] at he hf
    split_ifs at he hf <;> cases he <;> cases hf
    · simp_all
    · exact absurd heq (by decide)
    · exact absurd heq (by decide)
    · simp_all

/-- Every slot holds an event. -/
def tableFull : State := { evening with engine := { evening.engine with slots := Table.fill 48 (some armedElapsed) } }

/-- An action that notifies. -/
def notifyBytes : ActionBytes := ⟨0, 0, 0, 0⟩

theorem test_hyps_ArmingRequests :
    evening.Accepts ∧ (tableFull.Accepts ∧ ∀ i, tableFull.engine.slots.get i ≠ none) ∧
      (eventful.Accepts ∧ eventful.engine.slots.get 1 = none ∧ ∀ j < (1 : Slot), eventful.engine.slots.get j ≠ none) ∧
      up.calendar.state = .unset ∧ eventful.store.find 5 = some record5 := by decide +kernel

theorem test_armElapsed :
    gives (.armElapsed 41 0xFFFFFF 60 notifyBytes) eventful .ok [1, 1, 0, 0, 1, 15, 0x42, 0x3F] = true ∧
      gives (.armElapsed 41 0 60 notifyBytes) eventful .range [] = true := by decide +kernel

theorem test_armDaily :
    gives (.armDaily 301 1 1 ⟨1, 5, 0, 1⟩) evening .noRecord [] = true ∧
      gives (.armDaily 301 1 1 ⟨1, 5, 0, 1⟩) eventful .ok [1, 1, 0, 0, 0, 34, 132, 0, 0, 34, 133] = true := by
  decide +kernel

theorem test_armWall :
    gives (.armWall 900 765288000 notifyBytes) evening .ok [0, 1, 0, 45, 0x9D, 0x5E, 0x40] = true ∧
      gives (.armWall 900 0 notifyBytes) evening .ok [0, 2, 1, 0, 0, 0, 0] = true := by decide +kernel

theorem test_arming_refusals :
    gives (.armWall 900 3155760000 notifyBytes) evening .range [] = true ∧
      gives (.armDaily 300 1 0 notifyBytes) up .unset [] = true ∧
      gives (.armDaily 300 1 0 notifyBytes) eventful .tagTaken [] = true ∧
      gives (.armWall 900 0 notifyBytes) tableFull .tableFull [] = true ∧
      gives (.armElapsed 900 1 0 ⟨1, 5, 1, 0⟩) eventful .noCounter [] = true := by decide +kernel

theorem test_hyps_EventRequests :
    (eventful.Accepts ∧ eventful.engine.TableWf) ∧ eventful.engine.slots.get 0 = some dueEvent ∧
      eventful.engine.slots.get 47 = some armedElapsed ∧ eventful.engine.slots.get 1 = none ∧
      ((eventful.engine.dueList.drop 0).take 6).map (fun i => (i, eventful.engine.slots.get i)) =
        [(0, dueEvent)].map (fun p => (p.1, some p.2)) ∧
      (254 : Byte).toNat < dueEvent.pendingCount ∧ dueEvent.pendingCount ≤ (255 : Byte).toNat := by
  refine ⟨⟨by decide +kernel, eventful_tableWf⟩, ?_⟩
  decide +kernel

theorem test_findEvent :
    gives (.findEvent 0xFFFF) eventful .ok [47, 1, 0] = true ∧ gives (.findEvent 1) eventful .noEvent [] = true ∧
      gives (.findEvent 0) eventful .range [] = true := by decide +kernel

theorem test_eventInfo :
    gives (.eventInfo 0) eventful .ok [0, 2, 1, 44] = true ∧
      after (exec (.eventInfo 0) eventful)
        (fun t => t.window.buffer.items.take 37 ==
          [0, 1, 44, 2, 1, 0, 255, 0, 15, 0xA4, 0xC4, 0, 0, 0, 0, 0, 0, 0, 0, 0, 0, 34, 132, 1, 0, 0, 34, 134, 0, 0, 0, 0, 1, 0, 5, 0,
            128]) = true := by decide +kernel

theorem test_eventInfo_refusals :
    gives (.eventInfo 48) eventful .range [] = true ∧ gives (.eventInfo 1) eventful .noEvent [] = true := by
  decide +kernel

theorem test_cancelEvent :
    gives (.cancelEvent 0) eventful .ok [1, 44, 2, 255] = true ∧
      after (exec (.cancelEvent 0) eventful) (fun t => t.engine.dueList == [] && t.engine.slots.get 0 == none) = true := by
  decide +kernel

theorem test_readDue :
    gives (.readDue 0) eventful .ok [1, 1] = true ∧ gives (.readDue 1) eventful .ok [0, 1] = true := by decide +kernel

theorem test_ackDue :
    gives (.ackDue 0 254) eventful .ok [1, 44, 255, 1, 2, 0] = true ∧
      gives (.ackDue 0 255) eventful .ok [1, 44, 255, 0, 1, 0] = true := by decide +kernel

theorem test_ackDue_refusals :
    gives (.ackDue 0 0) eventful .range [] = true ∧ gives (.ackDue 47 1) eventful .notDue [] = true ∧
      gives (.ackDue 1 1) eventful .noEvent [] = true := by decide +kernel

theorem test_setDueThreshold :
    gives (.setDueThreshold 0) eventful .ok [1, 1] = true ∧ gives (.setDueThreshold 49) eventful .ok [48, 1] = true := by
  decide +kernel

/-- A moment with the clock set. -/
def momentAt (t : Nat) (wall : Nat) (day : Int) : Moment := { second := t, isSet := true, wall := wall, day := day }

theorem test_hyps_OccurrencesCounted :
    ({ armedElapsed with finished := true, state := .due, pendingCount := 1 } : Event).finished = true ∧
      (armedElapsed.finished = false ∧ armedElapsed.schedule = .elapsed 2000060 60 ∧ 2000059 < 2000060 ∧ 0 < 60) ∧
      (({ armedElapsed with schedule := .elapsed 5 0 } : Event).schedule = .elapsed 5 0) ∧
      (dueEvent.finished = false ∧ dueEvent.schedule = .daily 8836 1 8838) ∧
      (({ armedElapsed with schedule := .wallOnce 0 } : Event).schedule = .wallOnce 0) := by decide +kernel

theorem test_hyps_OccurrencesCounted_daily : 1 ≤ 1 ∧ (8836 : Int) ≤ 8838 ∧ ((1 : Nat) : Int) ∣ 8838 - 8836 := by decide

theorem test_occurrences_worked_values :
    armedElapsed.occurrences (momentAt 2000100 0 0) = 1 ∧
      (armedElapsed.evaluated (momentAt 2000100 0 0)).schedule = .elapsed 2000120 60 ∧
      ({ dueEvent with schedule := .daily 8836 3 8836 } : Event).occurrences (momentAt 0 0 8850) = 4 ∧
      (({ dueEvent with schedule := .daily 8836 3 8836 } : Event).evaluated (momentAt 0 0 8850)).schedule =
        .daily 8836 3 8848 := by decide +kernel

theorem test_evaluation_sends_tend_actions :
    ({ eventful with calendar := (setAt 1304800 763284800 240).calendar } : State).evaluate.engine.tends =
      [⟨0, 300, 5, 0, -1536⟩] := by decide +kernel

theorem test_hyps_EventTableWfKept :
    eventful.calendar.Wf ∧ eventful.engine.TableWf ∧
      completes (step { eventful with pending := [.secondEvent] }) = true :=
  ⟨by decide +kernel, eventful_tableWf, by decide +kernel⟩

theorem test_hyps_DueListWfKept :
    eventful.engine.DueListWf ∧ completes (step { eventful with pending := [.secondEvent] }) = true := by decide +kernel

theorem test_hyps_TargetsWfKept :
    eventful.TargetsWf ∧ completes (step { eventful with pending := [.retire 5] }) = true := by
  refine ⟨?_, by decide +kernel⟩
  intro i e he key index amount ha
  rw [eventful_slots] at he
  split_ifs at he <;> cases he <;> cases ha
  exact (by decide +kernel : ∃ r ∈ eventful.store.catalog, r.key = 5 ∧ 0 < r.counters.length)

/-! ### Sound -/

/-- A note of a timbre and length at the loudest, without envelope, in both channels. -/
def noteAs (t : Timbre) (length : Nat) : Note :=
  { timbre := t, pitch := 4096, length := length, startVolume := 15, envelopeUp := false, pace := 0, left := 3, right := 3,
    marker := none, cue := none }

/-- The bytes of a note entry: SQUARE-50, pitch step 16384, length 2, volume 15 with rising envelope of pace 7, gains 3 and
3, marker 10, cue of pattern 15 at priority 3. -/
def entry : NoteBytes := ⟨3, 16384, 2, 0xFF, 0xF0, 10, 0xBF⟩

/-- The part in RUN with voice 0 as given. -/
def voicing (v : Voice) : State := { up with sound := { up.sound with voices := up.sound.voices.set 0 v } }

/-- A voice PLAYING a note. -/
def playing (n : Note) (rest : List Note) : Voice :=
  { Voice.reset with
    state := .playing, current := some n, queue := rest, volume := n.startVolume, lengthCounter := n.length }

/-- A voice STARVED with its note spent. -/
def starved (n : Note) : Voice := { playing n [] with state := .starved, spent := true, lengthCounter := 0 }

theorem test_hyps_QueueNotesAppends :
    (noteOf entry).map Note.pitch = some 16383 ∧ noteOf { entry with timbre := 7 } = none ∧
      noteOf { entry with timbre := 16 } = none ∧ (noteOf { entry with timbre := 15 }).isSome = true ∧ up.Accepts ∧
      ([entry, entry, { entry with timbre := 7 }] : List NoteBytes).take (3 : Byte).toNat =
        [entry, entry] ++ { entry with timbre := 7 } :: [] ∧
      (([entry, entry, entry] : List NoteBytes).take (1 : Byte).toNat).map noteOf = [noteOf entry] ∧
      (7 : Byte).toNat = (7 : VoiceNo).val := by decide +kernel

theorem test_queueNotes :
    gives (.queueNotes 0 3 entry entry entry) up .ok [0, 3, 3, 0] = true ∧
      gives (.queueNotes 0 3 entry entry entry)
        (voicing (playing (noteAs .rest 0) (List.replicate 14 (noteAs .rest 1)))) .part [0, 2, 16, 1] = true ∧
      gives (.queueNotes 0 1 entry entry entry) (voicing (starved (noteAs .rest 1))) .ok [0, 1, 1, 1] = true := by
  decide +kernel

theorem test_queueNotes_refusals :
    gives (.queueNotes 8 1 entry entry entry) up .range [] = true ∧
      gives (.queueNotes 0 4 entry entry entry) up .range [] = true ∧
      gives (.queueNotes 0 2 entry { entry with timbre := 7 } entry) up .range [2] = true := by decide +kernel

theorem test_hyps_SoundSettingsAndReaders :
    up.Accepts ∧ 7 < (8 : Byte).toNat ∧ (7 : Byte).toNat = (7 : VoiceNo).val ∧
      (∀ j : Fin 32, ((Table.fill 32 0 : Wave).get j).val = min 15 (up.window.buffer.get (j.castLE (by decide))).toNat) ∧
      (∀ v : VoiceNo, (0 : Byte).getLsbD v.val = (up.sound.voices.get v).startMark) := by decide +kernel

theorem test_setVoice :
    gives (.setVoice 0 0 1 5) up .ok [0, 1, 4] = true ∧ gives (.setVoice 7 1 0 255) up .ok [1, 0, 12] = true ∧
      gives (.setVoice 8 0 0 0) up .range [] = true := by decide +kernel

theorem test_setMaster :
    gives (.setMaster 31) up .ok [16, 31] = true ∧ gives (.setMaster 32) up .ok [16, 31] = true := by decide +kernel

theorem test_loadWave :
    gives (.loadWave 7) { up with window := { up.window with buffer := (Table.fill 64 15).set 31 16 } } .ok [7, 1] = true ∧
      gives (.loadWave 8) up .range [] = true := by decide +kernel

theorem test_readVoices :
    gives .readVoices { voicing (starved (noteAs .noiseShort 1)) with } .ok [2, 0, 5, 0, 0, 255] = true := by
  decide +kernel

theorem test_readMarkers :
    gives .readMarkers { up with sound := { up.sound with markers := [10, 11], dropped := true } } .ok [2, 1, 10, 11] =
      true := by decide +kernel

theorem test_hyps_VoiceMaskRequests :
    (voicing (starved (noteAs .rest 1))).Accepts ∧ (0xFF : Byte).getLsbD 0 = true ∧
      ((voicing (starved (noteAs .rest 1))).sound.voices.get 0).state = .starved ∧
      ((voicing (playing (noteAs .rest 1) [])).sound.voices.get 0).state = .playing ∧
      ((voicing { starved (noteAs .rest 1) with state := .held .starved }).sound.voices.get 0).state = .held .starved ∧
      ((voicing { playing (noteAs .rest 1) [] with state := .held .playing }).sound.voices.get 0).state =
        .held .playing := by decide +kernel

theorem test_startVoices :
    gives (.startVoices 0x81) (voicing (starved (noteAs .rest 1))) .ok [0x80] = true ∧
      after (exec (.startVoices 1) up) (fun t => (t.sound.voices.get 0).startMark) = true := by decide +kernel

theorem test_holdVoices :
    gives (.holdVoices 0xFF) (voicing (starved (noteAs .rest 1))) .ok [1] = true ∧
      after (exec (.holdVoices 1) (voicing (starved (noteAs .rest 1))))
        (fun t => (t.sound.voices.get 0).state == .held .starved) = true := by decide +kernel

theorem test_releaseVoices :
    gives (.releaseVoices 0xFF) (voicing { playing (noteAs .rest 1) [] with state := .held .playing }) .ok [1] = true := by
  decide +kernel

theorem test_stopVoices :
    gives (.stopVoices 0xFF) (voicing (playing (noteAs .rest 1) [noteAs .rest 2, noteAs .rest 3])) .ok [1, 2] = true := by
  decide +kernel

/-- A voice with a note become current. -/
def takenBy (v : Voice) (n : Note) (rest : List Note) : Voice :=
  { v with
    state := .playing, queue := rest, current := some n, spent := false, startMark := false, phase := 0,
    volume := n.startVolume, lengthCounter := n.length, paceCounter := n.pace.val * 4,
    noise := if n.timbre = .noiseLong ∨ n.timbre = .noiseShort then 0x7FFF else v.noise }

/-- A voice whose note has run one tick. -/
def ranOn (v : Voice) (n : Note) : Voice :=
  { v with
    lengthCounter :=
      if v.state = .playing ∧ v.spent = false ∧ n.length ≠ 0 then v.lengthCounter - 1 else v.lengthCounter
    paceCounter :=
      if n.pace = 0 then v.paceCounter
      else if v.paceCounter ≤ 1 then n.pace.val * 4
      else v.paceCounter - 1
    volume :=
      if n.pace = 0 ∨ 1 < v.paceCounter then v.volume
      else if n.envelopeUp = true then (if h : v.volume.val < 15 then ⟨v.volume.val + 1, by omega⟩ else 15)
      else ⟨v.volume.val - 1, by omega⟩ }

/-- Its note ends at this tick. -/
def endedIn (v : Voice) (n : Note) : Bool :=
  v.spent || (if n.length = 0 then decide (v.queue ≠ []) else decide (v.lengthCounter ≤ 1))

theorem test_hyps_VoiceProgressAtASoundTick_exist (v : Voice) :
    ∃ (run : Voice) (taken : Note → List Note → Voice) (ended : Bool),
      (∀ n rest, taken n rest =
        { v with
          state := .playing, queue := rest, current := some n, spent := false, startMark := false, phase := 0,
          volume := n.startVolume, lengthCounter := n.length, paceCounter := n.pace.val * 4,
          noise := if n.timbre = .noiseLong ∨ n.timbre = .noiseShort then 0x7FFF else v.noise }) ∧
      (v.current = none → run = v ∧ ended = true) ∧
      (∀ n, v.current = some n →
        run =
          { v with
            lengthCounter :=
              if v.state = .playing ∧ v.spent = false ∧ n.length ≠ 0 then v.lengthCounter - 1 else v.lengthCounter
            paceCounter :=
              if n.pace = 0 then v.paceCounter
              else if v.paceCounter ≤ 1 then n.pace.val * 4
              else v.paceCounter - 1
            volume :=
              if n.pace = 0 ∨ 1 < v.paceCounter then v.volume
              else if n.envelopeUp = true then (if h : v.volume.val < 15 then ⟨v.volume.val + 1, by omega⟩ else 15)
              else ⟨v.volume.val - 1, by omega⟩ } ∧
        ended =
          (v.spent || (if n.length = 0 then decide (v.queue ≠ []) else decide (v.lengthCounter ≤ 1)))) := by
  cases h : v.current with
  | none => exact ⟨v, takenBy v, true, fun _ _ => by simp [takenBy], fun _ => ⟨rfl, rfl⟩, fun _ h' => absurd h' (by simp)⟩
  | some n =>
    refine ⟨ranOn v n, takenBy v, endedIn v n, fun _ _ => by simp [takenBy], fun h' => absurd h' (by simp), fun m hm => ?_⟩
    obtain rfl : n = m := by simpa using hm
    exact ⟨by simp [ranOn, h], rfl⟩

/-- A voice about to start, with the queue given. -/
def starting (queue : List Note) : Voice := { Voice.reset with startMark := true, queue := queue }

/-- A voice HELD from PLAYING. -/
def heldVoice : Voice := { playing (noteAs .square50 2) [] with state := .held .playing }

theorem test_hyps_VoiceProgressAtASoundTick :
    (Voice.reset.Wf ∧ (starting []).Wf ∧ (starting [noteAs .square50 2]).Wf) ∧
      ((starved (noteAs .square50 2)).Wf ∧ (playing (noteAs .square50 2) []).Wf) ∧
      ((playing (noteAs .square50 1) [noteAs .rest 1]).Wf ∧ (playing (noteAs .square50 1) []).Wf) ∧ heldVoice.Wf := by
  refine ⟨⟨?_, ?_, ?_⟩, ⟨?_, ?_⟩, ⟨?_, ?_⟩, ?_⟩ <;> decide +kernel

theorem test_voice_progress :
    (playing (noteAs .square50 2) []).progress.voice.lengthCounter = 1 ∧
      (playing (noteAs .square50 1) []).progress.starved = true ∧
      (playing (noteAs .square50 1) [noteAs .noiseShort 0]).progress.began = some (noteAs .noiseShort 0) ∧
      (playing (noteAs .noiseShort 0) []).progress.began = none := by decide +kernel

/-- A sound tick handed on, with one voice about to start a note with a marker and a cue, and one to starve. -/
def ticking : State :=
  { up with
    sound :=
      { up.sound with
        tickHanded := true
        markers := List.replicate 7 9
        voices :=
          ((up.sound.voices.set 0
            { Voice.reset with
              startMark := true
              queue := [{ noteAs .square50 2 with marker := some 10, cue := some ⟨3, 1⟩ }] }).set 7
            (playing (noteAs .rest 1) [])) } }

/-- The end of the fade. -/
def faded : State :=
  busyWith .quiesce { up with
    sound := { up.sound with master := 0, savedMaster := some 3 }, rumble := { up.rumble with quiet := true } }

theorem test_hyps_SoundTicksAndFadeComplete :
    (ticking.power.main = .run ∧ ticking.sound.tickHanded = true ∧
      ∀ v : VoiceNo, (0x80 : Byte).getLsbD v.val = (ticking.sound.voices.get v).progress.starved) ∧
    faded.power.main = .run ∧ faded.window.work = some .quiesce ∧ faded.sound.master = 0 ∧
      faded.sound.savedMaster = some 3 := by decide +kernel

theorem test_soundTick :
    after (exec .soundTick ticking)
      (fun t => t.sound.markers.length == 8 && t.sound.cues == [⟨3, 1⟩] && !t.sound.dropped &&
        t.notices.starved.voices == 0x80 && t.link.framesSent == 1 && !t.sound.tickHanded) = true := by decide +kernel

theorem test_fadeComplete :
    gives .fadeComplete faded .done [3] = true ∧ after (exec .fadeComplete faded) (fun t => t.power.main == .doze) = true := by
  decide +kernel

/-- Voice 1 of the manual's mix: a wave at sample 11, volume 12, gains 3 and 1. -/
def voice1 : Voice :=
  { playing { noteAs (.wave 0) 0 with right := 1 } [] with volume := 12 }

/-- Voice 2 of the manual's mix. -/
def voice2 : Voice := playing (noteAs .square50 0) []

/-- The manual's mix of voices 1, 2 and 3 at master volume 31. -/
def mixing (format : SlotFormat) (g : Group) (third : Bool) : State :=
  { up with
    link := { up.link with format := format }
    sound :=
      { up.sound with
        master := 31
        waves := up.sound.waves.set 0 (Table.fill 32 11)
        voices :=
          ((up.sound.voices.set 1 voice1).set 2 { voice2 with group := g }).set 3
            (if third then { voice2 with group := g } else Voice.reset) } }

theorem test_a_slot_value_is_sent_in_twos_complement :
    (up.link.send ⟨[-32768, -1, 1, 0], rfl⟩).sent.items = [0x8000, 0xFFFF, 1, 0] := by decide +kernel

theorem test_frames_worked_values :
    (mixing .pair .a false).frame.link.sent.items = [28737, 23529, 0, 0] ∧
      (mixing .pair .a false).frame.link.asd.take 8 = [false, true, true, true, false, false, false, false] ∧
      (mixing .pair .a true).frame.link.sent.items = [32767, 32767, 0, 0] ∧
      (mixing .pair .a true).frame.sound.clipped = 1 ∧
      (mixing .split .b true).frame.link.sent.items = [7812, 2604, 32767, 32767] ∧
      (mixing .split .b false).frame.link.sent.items = [7812, 2604, 20925, 20925] := by decide +kernel

theorem test_hyps_FramesAreComputedAndSent :
    ((mixing .pair .a true).sound.voices.get 1).state = .playing ∧
      ((mixing .pair .a true).sound.voices.get 1).current = some { noteAs (.wave 0) 0 with right := 1 } ∧
      ((mixing .pair .a true).sound.voices.get 0).state = .idle := by decide +kernel

theorem test_noise_worked_values :
    (voicing (playing (noteAs .noiseShort 0) [])).frame.sound.voices.get 0 =
        { playing (noteAs .noiseShort 0) [] with phase := 4096, noise := 0x3FBF } ∧
      noiseAdvance false 0x7FFF = 0x3FFF := by decide +kernel

theorem test_hyps_VoiceOutputsAndShares :
    (voice1.current = some { noteAs (.wave 0) 0 with right := 1 } ∧ voice1.state = .playing ∧ voice1.spent = false ∧
      voice1.phase.toNat / 2048 = (0 : Fin 32).val) ∧
    (({ voice2 with phase := 0xFFFF } : Voice).phase.toNat / 2048 = (31 : Fin 32).val) ∧
    Voice.reset.state = .idle ∧
    ((starved (noteAs .square50 1)).state = .starved ∧ (starved (noteAs .square50 1)).conditioning = .silence) := by
  decide +kernel

theorem test_outputs_worked_values :
    voice1.output (Table.fill 8 (Table.fill 32 11)) = 84 ∧ voice1.leftShare (Table.fill 8 (Table.fill 32 11)) = 252 ∧
      voice2.output (Table.fill 8 (Table.fill 32 0)) = 225 ∧
      ({ voice2 with phase := 0x8000 } : Voice).output (Table.fill 8 (Table.fill 32 0)) = -225 := by decide +kernel

theorem test_hyps_SoundWfKept :
    ticking.sound.Wf ∧ completes (step { ticking with pending := [.soundTick] }) = true := by decide +kernel

/-! ### The audio link -/

theorem test_hyps_LinkRequests :
    slaved.Accepts ∧ (1 : Byte) = LinkMode.own.code ∧ (1 : Byte) = SlotFormat.split.code ∧
      (3 : Byte).toNat = (3 : Fin 4).val ∧ slaved.link.mode ≠ .own ∧ slaved.link.mode = .follow ∧
      slaved.link.state = .slave ∧ slaved.link.reference = some 1000 ∧ 16625 ≤ 1000 + 15625 ∧ 1000 + 15625 < 16626 ∧
      up.Accepts ∧ up.link.mode ≠ .own ∧ up.link.state ≠ .slave ∧
      completes (exec .frameInstant { slaved with link := { slaved.link with state := .master } }) = true := by
  decide +kernel

theorem test_setLink :
    gives (.setLink 1 1 3 16625) slaved .ok [1, 2, 1, 3] = true ∧ gives (.setLink 0 1 3 0) slaved .ok [0, 1, 1, 3] = true ∧
      gives (.setLink 0 0 4 0) slaved .range [] = true ∧
      after (exec (.setLink 1 0 0 16626) slaved) (fun t => t.link.framesSent == 1 && t.link.ownNext == 32251) = true := by
  decide +kernel

theorem test_readLink :
    gives .readLink { slaved with link := { slaved.link with slips := 255 } } .ok [0, 1, 0, 0, 255, 0] = true := by
  decide +kernel

/-- The part at the frame event before a sound tick, and at the one that is also a rumble unit. -/
def atPhase (tick unit : Nat) : State := { up with link := { up.link with tickPhase := tick, unitPhase := unit } }

theorem test_hyps_FrameInstantsMakeFrameEvents :
    ((atPhase 126 3).power.main = .run ∧ (atPhase 126 3).sound.tickHanded = false ∧
      (atPhase 126 3).link.tickPhase + 1 < 128) ∧
    128 ≤ (atPhase 127 3).link.tickPhase + 1 ∧
    (ticking.sound.tickHanded = true ∧ completes (exec .soundTick ticking) = true) ∧
    dozing.power.main = .doze ∧ up.link.state ≠ .slave ∧ slaved.link.state = .slave ∧
    (({ State.reset with link := { Link.reset with outputsHold := true } } : State).power.main = .off) := by
  decide +kernel

theorem test_frameInstant :
    after (exec .frameInstant (atPhase 127 3))
        (fun t => t.sound.tickHanded && t.link.unitsHanded == 1 && t.link.ownNext == 31250) = true ∧
      after (exec .frameInstant dozing) (fun t => t.link.framesSent == 1 && t.link.tickPhase == 0) = true ∧
      after (exec .frameInstant slaved) (fun t => t == slaved) = true := by decide +kernel

/-- A link in MASTER one good strobe short of SLAVE, with its last own frame instant given. -/
def regaining (own : Instant) : State :=
  { up with
    link :=
      { up.link with state := .master, reference := some 100000, goodRun := 15, ownLast := some own } }

theorem test_hyps_StrobesAndSubstitutions :
    (slaved.power.main ≠ .off ∧ slaved.link.mode = .follow ∧ slaved.link.reference = some 1000 ∧
      1000 + 15360 ≤ 16360 ∧ 16360 ≤ 1000 + 16384 ∧ 16359 < 1000 + 15360) ∧
    (up.link.reference = none ∧ up.link.mode = .follow) ∧
    ((regaining 0).link.reference = some 100000 ∧ (regaining 0).link.state ≠ .slave ∧ 15 ≤ (regaining 0).link.goodRun ∧
      (regaining 107680).link.ownLast = some 107680 ∧ 107680 + 7680 ≤ 115360 ∧ 115360 < 107681 + 7680) ∧
    (slaved.link.substitutionRun < 3 ∧
      3 ≤ ({ slaved with link := { slaved.link with substitutionRun := 3 } } : State).link.substitutionRun) := by
  decide +kernel

theorem test_fsiStrobe :
    after (exec (.fsiStrobe 16359) slaved) (fun t => t == slaved) = true ∧
      after (exec (.fsiStrobe 17384) slaved) (fun t => t.link.reference == some 17384 && t.link.framesSent == 1) = true ∧
      after (exec (.fsiStrobe 115360) (regaining 107680))
        (fun t => t.link.state == .slave && t.notices.link.regained && t.link.framesSent == 1) = true ∧
      after (exec (.fsiStrobe 115360) (regaining 107681))
        (fun t => t.link.state == .slave && t.link.framesSent == 0) = true := by decide +kernel

theorem test_substitution :
    after (exec .substitution slaved)
        (fun t => t.link.slips == 1 && t.link.substitutionRun == 1 && t.link.reference == some 16625) = true ∧
      after (exec .substitution { slaved with link := { slaved.link with substitutionRun := 3 } })
        (fun t => t.link.state == .master && t.link.reference == none && t.link.ownNext == 32250 && t.notices.link.lost) =
        true := by decide +kernel

theorem test_hyps_LinkWfKept :
    slaved.link.Wf ∧ completes (step { slaved with pending := [.substitution] }) = true := by decide +kernel

/-! ### Rumble -/

/-- The driver with patterns 2, 5, 7 and 9 loaded, each one step of level 200, and the rest as given. -/
def driving (current : Option CurrentRequest) (queue : List RumbleRequest) : State :=
  let p : Pattern := { steps := [⟨200, 255⟩], repeats := 15 }
  { up with
    rumble :=
      { up.rumble with
        patterns := (((up.rumble.patterns.set 2 p).set 5 p).set 7 p).set 9 p
        current := current, queue := queue, strength := 10, ceiling := 255 } }

/-- A request of the console. -/
def console (p : Fin 16) (n : Fin 4) : RumbleRequest := ⟨p, n, .console⟩

/-- A request current and started, with its units and plays left. -/
def started (q : RumbleRequest) (units : Nat) (plays : Plays) : Option CurrentRequest :=
  some { request := q, playing := some { position := 0, unitsLeft := units, plays := plays } }

/-- The driver of the manual's arbitration at its step 7. -/
def arbitrating : State :=
  driving (started (console 9 2) 255 .endless) [⟨5, 1, .cue⟩, console 5 1, console 7 0, console 2 0]

theorem rumble_wf (r : Rumble)
    (hp : ∀ c ∈ r.current, ∀ p ∈ c.playing, p.plays = .endless ∨ p.plays = .left 0 ∨ p.plays = .left 1)
    (h : (∀ i, (r.patterns.get i).Wf) ∧
      (∀ c ∈ r.current, r.loaded c.request.pattern = true ∧
        ∀ p ∈ c.playing,
          p.position < (r.patterns.get c.request.pattern).steps.length ∧ 1 ≤ p.unitsLeft ∧ p.unitsLeft ≤ 255) ∧
      r.queue.length ≤ Config.waitingCapacity ∧ r.queue.Pairwise (fun a b => b.priority ≤ a.priority) ∧
      (∀ q ∈ r.queue, r.loaded q.pattern = true))
    (h' : (r.current = none → r.queue = [] ∧ r.kick = false) ∧ (r.kick = true → r.kickSetting = true) ∧
      r.ceiling ≤ 255 ∧ r.strength ≤ 15 ∧ r.droppedCues ≤ Config.maxDropped) : r.Wf := by
  refine ⟨h.1, fun c hc => ⟨(h.2.1 c hc).1, fun p hpl => ?_⟩, h.2.2.1, h.2.2.2.1, h.2.2.2.2, h'⟩
  obtain ⟨h1, h2, h3⟩ := (h.2.1 c hc).2 p hpl
  refine ⟨h1, h2, h3, ?_⟩
  rcases hp c hc p hpl with e | e | e <;> rw [e] <;> simp [Plays.Wf]

theorem arbitrating_wf : arbitrating.rumble.Wf := rumble_wf _ (by decide +kernel) (by decide +kernel) (by decide +kernel)

/-- The driver STILL, its quiet mark set. -/
def quieted : Rumble := { (driving none []).rumble with quiet := true }

theorem test_hyps_NewRumbleRequests_wf :
    arbitrating.rumble.Wf ∧ (driving none []).rumble.Wf ∧
      (driving (started (console 2 1) 1 .endless) [console 5 1]).rumble.Wf ∧ quieted.Wf :=
  ⟨arbitrating_wf, rumble_wf _ (by decide +kernel) (by decide +kernel) (by decide +kernel),
    rumble_wf _ (by decide +kernel) (by decide +kernel) (by decide +kernel),
    rumble_wf _ (by decide +kernel) (by decide +kernel) (by decide +kernel)⟩

theorem test_hyps_NewRumbleRequests :
    (arbitrating.rumble.quiet = false ∧ arbitrating.rumble.loaded 12 = false ∧ arbitrating.rumble.loaded 9 = true ∧
      arbitrating.rumble.queue.length = 4 ∧ arbitrating.rumble.queue.getLast? = some (console 2 0)) ∧
      ((driving none []).rumble.current = none ∧ quieted.quiet = true ∧ arbitrating.Accepts) ∧
      ({ arbitrating with sound := { arbitrating.sound with cues := [⟨9, 0⟩] } } : State).sound.cues = ⟨9, 0⟩ :: [] := by
  decide +kernel

theorem test_playPattern :
    gives (.playPattern 7 1) arbitrating .ok [3, 4, 2, 2, 0] = true ∧
      gives (.playPattern 5 0) arbitrating .queueFull [4, 2] = true ∧
      gives (.playPattern 12 3) arbitrating .noPattern [4, 2] = true ∧
      gives (.playPattern 5 3) arbitrating .ok [1, 4, 255, 9, 0] = true := by decide +kernel

theorem test_playPattern_when_still_or_with_room :
    gives (.playPattern 2 1) (driving none []) .ok [0, 0, 255] = true ∧
      gives (.playPattern 7 0) (driving (started (console 2 1) 1 .endless) [console 5 1]) .ok [2, 2, 1] = true ∧
      gives (.playPattern 16 0) up .range [] = true ∧ gives (.playPattern 0 4) up .range [] = true := by decide +kernel

theorem test_cue :
    after (exec .cue { arbitrating with sound := { arbitrating.sound with cues := [⟨9, 0⟩] } })
      (fun t => t.rumble == { arbitrating.rumble with droppedCues := 1 } && t.sound.cues == []) = true := by
  decide +kernel

/-- Pattern 3 of the manual, with strength 10 and the kick on, and the current request as given. -/
def kicking (c : Option CurrentRequest) : State :=
  { up with
    link := { up.link with unitsHanded := 1 }
    rumble :=
      { up.rumble with
        patterns := up.rumble.patterns.set 3 { steps := [⟨200, 2⟩, ⟨0, 1⟩, ⟨120, 1⟩], repeats := 1 }
        strength := 10, kickSetting := true, ceiling := 255, current := c } }

theorem test_hyps_RumblePatternsAndSettings :
    arbitrating.Accepts ∧ (15 : Byte).toNat = (15 : Fin 16).val ∧ (32 : Byte).toNat ≤ 32 ∧ (15 : Byte).toNat ≤ 15 ∧
      15 < (16 : Byte).toNat ∧ up.rumble.current = none ∧
      arbitrating.rumble.current = some ⟨console 9 2, some ⟨0, 255, .endless⟩⟩ ∧
      (kicking (some (console 3 0).asCurrent)).Accepts ∧
      (kicking (some (console 3 0).asCurrent)).rumble.current = some ⟨console 3 0, none⟩ := by decide +kernel

theorem test_loadPattern :
    gives (.loadPattern 9 0 0) arbitrating .ok [9, 0, 0, 0, 1, 0] = true ∧
      gives (.loadPattern 5 0 0) arbitrating .ok [5, 0, 0, 0, 0, 2] = true ∧
      gives (.loadPattern 0 32 15) up .ok [0, 32, 15, 32, 0, 0] = true ∧
      gives (.loadPattern 0 33 0) up .range [] = true := by decide +kernel

theorem test_stopRumble : gives .stopRumble arbitrating .ok [9, 4] = true := by decide +kernel

theorem test_setRumble :
    gives (.setRumble 16 1) arbitrating .ok [15, 1, 200] = true ∧ gives (.setRumble 0 2) up .range [] = true := by
  decide +kernel

theorem test_readRumble :
    gives .readRumble arbitrating .ok
        [1, 9, 2, 0, 1, 0, 255, 15, 133, 255, 0, 0, 10, 0, 4, 5, 1, 1, 5, 1, 0, 7, 0, 0, 2, 0, 0, 0] = true ∧
      gives .readRumble up .ok [0, 255] = true ∧
      gives .readRumble (kicking (some (console 3 0).asCurrent)) .ok [1, 3, 0, 0, 0] = true := by decide +kernel

/-- The request of the manual's table at a position. -/
def at3 (position units : Nat) (plays : Plays) : Option CurrentRequest :=
  some { request := console 3 0, playing := some { position := position, unitsLeft := units, plays := plays } }

theorem test_hyps_RumbleUnitsProgress_wf :
    ∀ c ∈ [none, at3 0 2 (.left 1), at3 0 1 (.left 1), at3 2 1 (.left 1), at3 2 1 .endless, at3 2 1 (.left 0),
      some (console 3 0).asCurrent], (kicking c).rumble.Wf := by
  intro c hc
  fin_cases hc <;> exact rumble_wf _ (by decide +kernel) (by decide +kernel) (by decide +kernel)

theorem test_hyps_RumbleUnitsProgress :
    ((kicking none).power.main = .run ∧ (kicking none).link.unitsHanded = 0 + 1) ∧
    ((kicking none).rumble.patterns.get 3).steps[0]? = some ⟨200, 2⟩ ∧
    ((kicking none).rumble.patterns.get 3).steps[0 + 1]? = some ⟨0, 1⟩ ∧
    ((kicking none).rumble.patterns.get 3).steps.length = 2 + 1 := by decide +kernel

theorem test_rumbleUnit_starts_with_a_kick :
    after (exec .rumbleUnit (kicking (some (console 3 0).asCurrent)))
      (fun t => t.rumble.current == at3 0 2 (.left 1) && t.duty == 255) = true := by decide +kernel

theorem test_rumbleUnit_counts_plays_and_finishes :
    after (exec .rumbleUnit (kicking (at3 0 2 (.left 1))))
        (fun t => t.rumble.current == at3 0 1 (.left 1) && t.duty == 133) = true ∧
      after (exec .rumbleUnit (kicking (at3 2 1 (.left 1))))
        (fun t => t.rumble.current == at3 0 2 (.left 0) && t.duty == 133) = true ∧
      after (exec .rumbleUnit (kicking (at3 2 1 (.left 0))))
        (fun t => t.rumble.current == none && t.notices.rumble.done) = true := by decide +kernel

theorem test_hyps_DutyFollowsTheState :
    (arbitrating.power.main = .run ∧ arbitrating.rumble.supplyLow = false ∧
      (arbitrating.rumble.patterns.get 9).steps[0]? = some ⟨200, 255⟩) ∧ up.rumble.current = none ∧
      (255 ≤ 255 ∧ 15 ≤ 15) ∧ arbitrating.rumble.Wf :=
  ⟨by decide +kernel, by decide +kernel, by decide +kernel, arbitrating_wf⟩

theorem test_duty_worked_values :
    requestedDuty 200 10 = 133 ∧ requestedDuty 255 15 = 255 ∧ arbitrating.duty = 133 ∧ ceilingOf 3150 = 127 ∧
      ceilingOf 3050 = 42 ∧ ceilingOf 3020 = 17 ∧ ceilingOf 3060 = 51 := by decide +kernel

theorem test_hyps_RumbleWfKept :
    arbitrating.rumble.Wf ∧ completes (step { arbitrating with pending := [.playPattern 7 1] }) = true :=
  ⟨arbitrating_wf, by decide +kernel⟩

/-! ### Power -/

/-- The stocked part in OFF, its change of key 7 open and its keep-lost mark set. -/
def unpowered : State :=
  { stocked with power := State.reset.power, store := { stocked.store with keepLost := true } }

/-- A fall that leaves record 5 with other fields that an entry can hold. -/
def fault5 : CatalogFault :=
  { key := 5, length := 64, blocks := [9], generation := 7, check := 0xBEEF, damage := true, audited := false,
    counters := [⟨3, 0xFFFF, 9⟩] }

theorem test_hyps_SupplyReadingsAndPowerEvents_fall :
    (stocked.window.work = none ∧ stocked.store.find fault5.key.toNat = some record5) ∧
      (record5.shadow = none ∧ GoodLength fault5.length.toNat ∧ fault5.blocks.length = (fault5.length.toNat + 63) / 64 ∧
        fault5.blocks.Nodup ∧ (∀ b ∈ fault5.blocks, b ∈ record5.blocks ∨ b ∈ stocked.store.freeBlocks) ∧
        fault5.counters.length = record5.counters.length ∧
        ∀ c ∈ fault5.counters, c.floor.toInt ≤ c.value.toInt ∧ c.value.toInt ≤ c.ceiling.toInt) := by decide +kernel

theorem test_hyps_SupplyReadingsAndPowerEvents :
    (unpowered.power.keepRuns = true ∧ unpowered.power.main = .off ∧ (⟨2899, 2199⟩ : Reading).console.toNat < 2900 ∧
      2900 ≤ (⟨2900, 2200⟩ : Reading).console.toNat) ∧
    (stocked.power.keepRuns = true ∧ stocked.power.main ≠ .off ∧ 2700 ≤ (⟨2700, 2300⟩ : Reading).console.toNat ∧
      (⟨2699, 2300⟩ : Reading).console.toNat < 2700) ∧
    stocked.MemoryWf := by decide +kernel

theorem test_supplyReading_in_off :
    after (exec (.supplyReading ⟨2899, 2199⟩) unpowered) (fun t => t.power.main == .off && t.power.cellLow) = true ∧
      after (exec (.supplyReading ⟨2900, 2200⟩) unpowered)
        (fun t => t.power.main == .run && t.store.changesLost == 1 && t.store.openCount == 0 && t.store.auditFlag &&
          t.notices.keep == ⟨true, false, true, true, false⟩) = true := by decide +kernel

theorem test_supplyReading_in_run :
    after (exec (.supplyReading ⟨2949, 2300⟩) arbitrating)
        (fun t => t.rumble.supplyLow && t.notices.power.halted && t.duty == 0) = true ∧
      after (exec (.supplyReading ⟨2950, 2300⟩) arbitrating) (fun t => !t.rumble.supplyLow) = true ∧
      after (exec (.supplyReading ⟨2699, 2300⟩) stocked)
        (fun t => t.power.main == .off && t.store.changesLost == 1) = true := by decide +kernel

theorem test_supplyReading_resumes :
    after (exec (.supplyReading ⟨3050, 2300⟩)
        { arbitrating with rumble := { arbitrating.rumble with supplyLow := true } })
      (fun t => !t.rumble.supplyLow && t.notices.power.resumed && t.rumble.ceiling == 42 && t.duty == 42) = true := by
  decide +kernel

theorem test_wakeEvent :
    after (exec (.wakeEvent ⟨3300, 3000⟩) State.reset) (fun t => t.power.main == .run) = true ∧
      after (exec (.wakeEvent ⟨3300, 3000⟩) up) (fun t => t == up) = true := by decide +kernel

theorem test_consoleReset :
    after (exec .consoleReset noticing)
        (fun t => t.power.main == .run && t.power.resetHeld && t.notices.enable == 0 && !t.notices.rumble.pending) = true ∧
      after (exec .consoleReset State.reset) (fun t => t.power.resetHeld && t.power.main == .off) = true := by
  decide +kernel

theorem test_consoleResetRelease :
    after (exec .consoleResetRelease held) (fun t => t == up) = true := by decide +kernel

theorem test_retentionDoubtful :
    after (exec (.retentionDoubtful [.byte 70 1, .byte 65535 2, .byte 70 0]) stocked)
      (fun t => t.power.retentionDoubtful && t.store.memory == [(65535, 2)] &&
        t.store.catalog == stocked.store.catalog) = true := by decide +kernel

theorem test_retentionDoubtful_on_the_catalog :
    after (exec (.retentionDoubtful [.entry fault5]) stocked)
        (fun t => t.store.catalog == [{ record5 with
          length := 64, blocks := [9], generation := 7, check := 0xBEEF, damage := true, audited := false,
          counters := [⟨3, -1, 9⟩] }, record7]) = true ∧
      after (exec (.retentionDoubtful [.entry { fault5 with blocks := record7.blocks.take 1 }]) stocked)
        (fun t => t.store.catalog == stocked.store.catalog) = true := by decide +kernel

theorem test_keepDomainStop :
    after (exec .keepDomainStop stocked) (fun t => t.power.main == .off && !t.power.keepRuns) = true := by decide +kernel

theorem test_cellReset : after (exec .cellReset stocked) (fun t => t == State.reset) = true := by decide +kernel

theorem test_hyps_QuiesceAndReadPower :
    stocked.Accepts ∧ 0 < stocked.store.openCount ∧ up.Accepts ∧ up.store.openCount = 0 ∧ dozing.Accepts := by
  decide +kernel

theorem test_quiesce :
    gives .quiesce stocked .changesOpen [1] = true ∧
      after (exec .quiesce up)
        (fun t => t.window.work == some .quiesce && t.rumble.quiet && t.sound.savedMaster == some 16) = true := by
  decide +kernel

theorem test_readPower :
    gives .readPower dozing .ok [0, 0, 0, 0, 1, 1, 1, 0, 0, 1, 0] = true ∧
      gives .readPower up .ok [0, 0, 0, 0, 1, 0, 1, 0, 0, 1, 0] = true := by decide +kernel

theorem test_hyps_DozeWfKept :
    dozing.DozeWf ∧ up.DozeWf ∧ faded.DozeWf ∧ completes (step { faded with pending := [.fadeComplete] }) = true := by
  refine ⟨?_, ?_, ?_, ?_⟩ <;> decide +kernel

end Sys2Proof.Tests
end

/-! SUPPORT. The request in hand: which commands can put one there, and that every other command leaves it as it is or
drops it. -/

namespace Sys2Proof.Machine

open Sys2Proof

/-- The commands that can put a request in hand, or move the one in hand to its next stage. -/
def Instr.takesInHand : Instr → Bool
  | .create .. => true
  | .retire _ => true
  | .openChange .. => true
  | .readPiece .. => true
  | .verification => true
  | .closeChange _ => true
  | .closeAll => true
  | .quiesce => true
  | _ => false

/-- The request in hand in `t` is the one in hand in `s`, or there is none. -/
def State.WorkKept (s t : State) : Prop := t.window.work = s.window.work ∨ t.window.work = none

theorem State.workKept_of_window {s t : State} (h : t.window = s.window) : s.WorkKept t := .inl (by rw [h])

theorem State.workKept_answer (s u : State) (r : Result) (data : List Byte) : s.WorkKept (u.answer r data) := .inr rfl

/-- A submit puts nothing in hand when what the owning block does puts nothing there. -/
theorem submit_workKept {s : State} {bytes : List Byte} {act : Bool → State → State}
    (hact : ∀ woke u, s.WorkKept (act woke u)) : s.WorkKept (submit bytes act s) :=
  submit_cases (P := s.WorkKept) (.inl rfl) (.inl rfl) fun _ woke => hact woke _

theorem State.onRecord_workKept {s u : State} {bad : Bool} {key : Half} {act : Entry → State}
    (hact : ∀ e, s.WorkKept (act e)) : s.WorkKept (u.onRecord bad key act) :=
  State.onRecord_cases (fun _ => .inr rfl) (fun _ _ => .inr rfl) fun _ e _ => hact e

theorem State.onCounter_workKept (s u : State) (bad : Bool) (key : Half) (index : Byte)
    (act : Counter → Result × Counter × Bool) : s.WorkKept (u.onCounter bad key index act) :=
  State.onCounter_cases (fun _ => .inr rfl) (fun _ _ => .inr rfl) (fun _ _ _ _ => .inr rfl) fun _ _ _ _ _ => .inr rfl

theorem State.onSlot_workKept {s u : State} {bad : Bool} {slot : Byte} {act : Slot → Event → State}
    (hact : ∀ i e, s.WorkKept (act i e)) : s.WorkKept (u.onSlot bad slot act) :=
  State.onSlot_cases (.inr rfl) (.inr rfl) fun _ _ _ _ => hact _ _

/-- Everything an arming request can do: the answer of a refusal, or the arming step in a FREE slot with every check passed. -/
theorem State.armRequest_cases {P : State → Prop} {s : State} {tag : Half} {bad needsWall : Bool} {schedule : Schedule}
    {a : ActionBytes} (hrefused : ∀ r, P (s.answer r []))
    (harm : ∀ slot, firstFailing (armChecks s tag bad needsWall a) = none → s.engine.freeSlot = some slot →
      P (s.arm slot (armedEvent tag schedule a))) : P (s.armRequest tag bad needsWall schedule a) := by
  unfold State.armRequest
  split
  · exact hrefused _
  · exact hrefused _
  · exact harm _ ‹_› ‹_›

/-- An arming step answers: the slot it filled is not FREE after the evaluation. -/
theorem State.arm_answers (s : State) (slot : Slot) (e : Event) :
    ∃ data, s.arm slot e =
      ({ s with engine := { s.engine with slots := s.engine.slots.set slot (some e) } }.evaluate).answer .ok data := by
  unfold State.arm State.armAnswer
  split
  · exact ⟨_, rfl⟩
  · rename_i hnone
    simp [State.evaluate] at hnone

theorem State.armRequest_workKept (s u : State) (tag : Half) (bad needsWall : Bool) (schedule : Schedule)
    (a : ActionBytes) : s.WorkKept (u.armRequest tag bad needsWall schedule a) :=
  State.armRequest_cases (fun _ => .inr rfl) fun slot _ _ => by
    obtain ⟨data, h⟩ := u.arm_answers slot (armedEvent tag schedule a)
    exact .inr (by rw [h]; rfl)

@[simp] theorem Window.store_work (w : Window) (offset : Nat) (value : Byte) : (w.store offset value).work = w.work := by
  unfold Window.store
  repeat' split
  all_goals rfl

/-- A reading leaves the request in hand, or drops it. -/
theorem State.takeReading_workKept {s u : State} (hu : u.window = s.window) (r : Reading) : s.WorkKept (u.takeReading r) := by
  obtain ⟨_, _, h⟩ | ⟨_, _, h⟩ | ⟨_, _, h⟩ | ⟨_, _, h⟩ := u.takeReading_cases r <;> rw [h]
  · exact State.workKept_of_window hu
  · exact .inr rfl
  · exact State.workKept_of_window hu
  · exact .inr rfl

/-- Every other command leaves the request in hand as it is, or drops it. -/
theorem exec_keeps_work {c : Instr} {s t : State} (hc : Instr.takesInHand c = false) (h : exec c s = .next t) :
    s.WorkKept t := by
  cases c
  case create | retire | openChange | readPiece | verification | closeChange | closeAll | quiesce => cases hc
  all_goals cases h
  case info => exact submit_workKept fun _ _ => State.onRecord_workKept fun _ => .inr rfl
  case writePiece =>
    refine submit_workKept fun _ _ => State.onRecord_workKept fun _ => ?_
    repeat' split
    all_goals exact .inr rfl
  case abandonChange =>
    refine submit_workKept fun _ _ => State.onRecord_workKept fun _ => ?_
    split <;> exact .inr rfl
  case readCounter | adjustCounter | setCounter | swapCounter | setBounds =>
    exact submit_workKept fun _ u => s.onCounter_workKept u _ _ _ _
  case eventInfo | cancelEvent => exact submit_workKept fun _ _ => State.onSlot_workKept fun _ _ => .inr rfl
  case ackDue =>
    refine submit_workKept fun _ _ => State.onSlot_workKept fun _ _ => ?_
    split <;> exact .inr rfl
  case armElapsed | armDaily | armWall => exact submit_workKept fun _ u => s.armRequest_workKept u _ _ _ _ _
  case setWall | queueNotes =>
    refine submit_workKept fun _ _ => ?_
    dsimp only
    repeat' split
    all_goals exact .inr rfl
  case unknown =>
    split
    · exact .inl rfl
    · exact submit_workKept fun _ _ => .inr rfl
  case entryStep | fadeComplete =>
    split
    · exact .inr rfl
    · exact .inl rfl
  case retireAnswer =>
    split
    · split
      · exact .inl rfl
      · exact .inr rfl
    · exact .inl rfl
  case openChangeEntry =>
    split
    · split
      · exact .inr rfl
      · exact .inl rfl
    · exact .inl rfl
  case swapStage =>
    split
    · split
      · exact .inr rfl
      · exact .inl rfl
    · exact .inr rfl
    · exact .inl rfl
  case frameInstant | fsiStrobe | substitution =>
    repeat' split
    all_goals exact State.workKept_of_window (by simp)
  case windowWrite =>
    split
    · exact .inl (Window.store_work _ _ _)
    · exact .inl rfl
  case minuteEvent =>
    split
    · exact .inl rfl
    · dsimp only
      split
      · exact .inl rfl
      · split
        · exact .inl rfl
        · exact State.takeReading_workKept (by rfl) _
  case supplyReading | wakeEvent =>
    split
    · exact State.takeReading_workKept rfl _
    · exact .inl rfl
  case consoleReset =>
    dsimp only
    split
    · exact .inr rfl
    · exact .inl rfl
  case keepDomainStop | cellReset => exact .inr rfl
  case overrun | auditStep | tendAction | tendAnswer | secondEvent | cue | soundTick | rumbleUnit |
      consoleResetRelease | retentionDoubtful =>
    repeat' split
    all_goals exact .inl rfl
  all_goals
    refine submit_workKept fun _ _ => ?_
    repeat' split
    all_goals exact .inr rfl

end Sys2Proof.Machine

/-! SUPPORT. What a command can do to the record store: the cases of `StoreStep`, and what entries and store keep when every
entry keeps its record. -/

namespace Sys2Proof.Machine

open Sys2Proof

/-- What a change of an entry that touches no record contents keeps: everything the good order of the store speaks of, and
an audited mark that is set. -/
structure Entry.Keeps (e e' : Entry) : Prop where
  key : e'.key = e.key
  length : e'.length = e.length
  blocks : e'.blocks = e.blocks
  generation : e'.generation = e.generation
  counters : e'.counters.length = e.counters.length
  shadow : e'.shadow = e.shadow
  audited : e.audited = true → e'.audited = true

/-- What the end of an open change, by a swap or by an abandonment, keeps: key and number of counters, the ranges, and no
block that was not the entry's own; an entry still OPEN after it has not changed. -/
structure Entry.Closes (e e' : Entry) : Prop where
  key : e'.key = e.key
  counters : e'.counters.length = e.counters.length
  places : (e'.blocks ++ e'.shadowBlocks).Sublist (e.blocks ++ e.shadowBlocks)
  wf : e.Wf → e'.Wf
  isOpen : e'.isOpen = true → e' = e

/-- Everything a command can do to the catalog, the audit flag and the request in hand. -/
inductive StoreStep (s t : State) : Instr → Prop
  /-- Entries keep their records, and no request is taken in hand. -/
  | kept (c : Instr) (g : Entry → Entry) (hcat : t.store.catalog = s.store.catalog.map g) (hg : ∀ e : Entry, e.Keeps (g e))
      (hflag : t.store.auditFlag = true → s.store.auditFlag = true) (hwork : s.WorkKept t) : StoreStep s t c
  /-- A request that has passed its checks is taken in hand. -/
  | held (c : Instr) (w : Work) (hwork : t.window.work = some w) (hcat : t.store.catalog = s.store.catalog)
      (hflag : t.store.auditFlag = s.store.auditFlag) (hbacks : s.store.Backs w)
      (hverified : ∀ key newLength copyIn blocks, w = .openFill key newLength copyIn blocks →
        ∃ e, s.store.find key = some e ∧ s.store.mustVerify e = false) : StoreStep s t c
  /-- The entry step of the CREATE in hand. -/
  | entered (key length : Nat) (blocks : List Block) (check : Half) (counters : List Counter)
      (hin : s.window.work = some (.create key length blocks check counters)) (hwork : t.window.work = none)
      (hcat : t.store.catalog = insertEntry (newEntry key length blocks check counters) s.store.catalog)
      (hflag : t.store.auditFlag = s.store.auditFlag) : StoreStep s t .entryStep
  /-- The retirement step. -/
  | retired (key : Half) (freed : Nat) (hwork : t.window.work = some (.retire key.toNat freed))
      (hcat : t.store.catalog = s.store.catalog.filter fun e => e.key != key.toNat)
      (hflag : t.store.auditFlag = s.store.auditFlag) : StoreStep s t (.retire key)
  /-- The OPEN-CHANGE in hand goes from its verification to its fill stage. -/
  | verified (key newLength : Nat) (copyIn : Bool) (hin : s.window.work = some (.openVerify key newLength copyIn))
      (hwork : t.window.work = some (.openFill key newLength copyIn (s.store.lowestFree (blocksFor newLength))))
      (hcat : t.store.catalog = (s.store.verify key).catalog)
      (hflag : t.store.auditFlag = s.store.auditFlag) : StoreStep s t .verification
  /-- The entry step of the OPEN-CHANGE in hand. -/
  | opened (key newLength : Nat) (copyIn : Bool) (blocks : List Block)
      (hin : s.window.work = some (.openFill key newLength copyIn blocks)) (hwork : t.window.work = none)
      (hcat : t.store.catalog = (s.store.update key fun e =>
        { e with shadow := some { newLength := newLength, blocks := blocks, copyIn := copyIn } }).catalog)
      (hflag : t.store.auditFlag = s.store.auditFlag) : StoreStep s t .openChangeEntry
  /-- Open changes end, by a swap or by an abandonment; an audit that starts finds none open. -/
  | closed (c : Instr) (g : Entry → Entry) (hwork : t.window.work = none)
      (hcat : t.store.catalog = s.store.catalog.map g) (hg : ∀ e : Entry, e.Closes (g e))
      (hflag : t.store.auditFlag = true → s.store.auditFlag = true ∨ ∀ e ∈ t.store.catalog, e.isOpen = false) :
      StoreStep s t c
  /-- A fall of the keep supply, with no request in hand. -/
  | faulted (faults : List RetentionFault) (hwork : t.window.work = none)
      (hstore : t.store = faults.foldl (Store.fault false) s.store) : StoreStep s t (.retentionDoubtful faults)
  /-- A cell reset. -/
  | cleared (hwork : t.window.work = none) (hcat : t.store.catalog = []) : StoreStep s t .cellReset

/-! ### Entries -/

theorem Entry.Keeps.refl (e : Entry) : e.Keeps e := ⟨rfl, rfl, rfl, rfl, rfl, rfl, id⟩

theorem Entry.Keeps.shadowBlocks {e e' : Entry} (h : e.Keeps e') : e'.shadowBlocks = e.shadowBlocks := by
  simp [Entry.shadowBlocks, h.shadow]

theorem Entry.Keeps.isOpen {e e' : Entry} (h : e.Keeps e') : e'.isOpen = e.isOpen := by
  simp [Entry.isOpen, h.shadow]

theorem Entry.Keeps.wf {e e' : Entry} (h : e.Keeps e') (hw : e.Wf) : e'.Wf := by
  unfold Entry.Wf at hw ⊢
  rwa [h.key, h.length, h.blocks, h.generation, h.counters, h.shadow]

theorem Store.verifiedEntry_keeps (st : Store) (e : Entry) : e.Keeps (st.verifiedEntry e) :=
  ⟨rfl, rfl, rfl, rfl, rfl, rfl, fun _ => rfl⟩

theorem Entry.setCounter_keeps (e : Entry) (i : Nat) (c : Counter) : e.Keeps (e.setCounter i c) :=
  ⟨rfl, rfl, rfl, rfl, by simp, rfl, id⟩

theorem Entry.Closes.refl (e : Entry) : e.Closes e := ⟨rfl, rfl, List.Sublist.refl _, id, fun _ => rfl⟩

theorem Entry.Closes.trans {a b c : Entry} (h : a.Closes b) (k : b.Closes c) : a.Closes c :=
  ⟨k.key.trans h.key, k.counters.trans h.counters, k.places.trans h.places, fun hw => k.wf (h.wf hw), fun ho => by
    have hcb := k.isOpen ho
    rw [hcb, h.isOpen (hcb ▸ ho)]⟩

theorem Entry.abandoned_closes (e : Entry) : e.Closes e.abandoned :=
  ⟨rfl, rfl, by simp [Entry.abandoned, Entry.shadowBlocks], fun ⟨h1, h2, h3, h4, h5, _⟩ =>
    ⟨h1, h2, h3, h4, h5, by simp⟩, fun h => by simp at h⟩

theorem Entry.swapped_closes (check : Half) (e : Entry) : e.Closes (e.swapped check) := by
  unfold Entry.swapped
  split
  · exact .refl e
  · rename_i sh hsh
    refine ⟨rfl, rfl, ?_, ?_, fun h => by simp [Entry.isOpen] at h⟩
    · simp [Entry.shadowBlocks, hsh]
    · rintro ⟨h1, -, -, -, h5, h6⟩
      obtain ⟨hlen, hblocks⟩ := h6 sh hsh
      exact ⟨h1, hlen, hblocks, by dsimp only; omega, h5, by simp⟩

/-- A change of the entry of one key, as a change of every entry. -/
def Entry.underKey (key : Nat) (f : Entry → Entry) (e : Entry) : Entry := if e.key = key then f e else e

theorem Store.update_catalog (st : Store) (key : Nat) (f : Entry → Entry) :
    (st.update key f).catalog = st.catalog.map (Entry.underKey key f) := rfl

theorem Entry.underKey_keeps {key : Nat} {f : Entry → Entry} (hf : ∀ e : Entry, e.Keeps (f e)) (e : Entry) :
    e.Keeps (e.underKey key f) := by
  unfold Entry.underKey
  split
  · exact hf e
  · exact .refl e

theorem Entry.underKey_closes {key : Nat} {f : Entry → Entry} (hf : ∀ e : Entry, e.Closes (f e)) (e : Entry) :
    e.Closes (e.underKey key f) := by
  unfold Entry.underKey
  split
  · exact hf e
  · exact .refl e

/-- What a swap stage makes of one entry. -/
def Entry.swappedBy (checks : List (Nat × Half)) (e : Entry) : Entry :=
  checks.foldl (fun e c => e.underKey c.1 (Entry.swapped c.2)) e

theorem Store.swap_catalog (st : Store) (checks : List (Nat × Half)) :
    (st.swap checks).catalog = st.catalog.map (Entry.swappedBy checks) := by
  induction checks generalizing st with
  | nil => exact (List.map_id _).symm
  | cons c rest ih =>
    show ((st.update c.1 (Entry.swapped c.2)).swap rest).catalog = _
    rw [ih, Store.update_catalog, List.map_map]
    rfl

theorem Store.swap_auditFlag (st : Store) (checks : List (Nat × Half)) : (st.swap checks).auditFlag = st.auditFlag := by
  induction checks generalizing st with
  | nil => rfl
  | cons c rest ih => exact ih _

theorem Entry.swappedBy_closes (checks : List (Nat × Half)) (e : Entry) : e.Closes (e.swappedBy checks) := by
  induction checks generalizing e with
  | nil => exact .refl e
  | cons c rest ih => exact (Entry.underKey_closes (Entry.swapped_closes c.2) e).trans (ih _)

/-! ### The store when every entry keeps its record -/

section
variable {st st' : Store} {g : Entry → Entry} (hcat : st'.catalog = st.catalog.map g) (hg : ∀ e : Entry, e.Keeps (g e))
include hcat hg

theorem Store.usedBlocks_of_keeps : st'.usedBlocks = st.usedBlocks := by
  simp only [Store.usedBlocks, hcat, List.flatMap_map, (hg _).blocks, (hg _).shadowBlocks]

theorem Store.freeBlocks_of_keeps : st'.freeBlocks = st.freeBlocks := by
  simp only [Store.freeBlocks, Store.usedBlocks_of_keeps hcat hg]

theorem Store.openCount_of_keeps : st'.openCount = st.openCount := by
  simp only [Store.openCount, hcat, List.countP_map, Function.comp_def, (hg _).isOpen]

theorem Store.keys_of_keeps : st'.catalog.map Entry.key = st.catalog.map Entry.key := by
  simp only [hcat, List.map_map, Function.comp_def, (hg _).key]

theorem Store.wf_of_keeps (h : st.Wf) : st'.Wf := by
  obtain ⟨hsorted, hlength, hopen, hentries, hnodup⟩ := h
  refine ⟨sorted_keys (Store.keys_of_keeps hcat hg).symm hsorted, by simpa [hcat] using hlength,
    (Store.openCount_of_keeps hcat hg).trans_le hopen, ?_, by rwa [Store.usedBlocks_of_keeps hcat hg]⟩
  rw [hcat, List.forall_mem_map]
  exact fun e he => (hg e).wf (hentries e he)

theorem Store.selected_of_keeps {blocks : List Block} {length : Nat} (h : st.Selected blocks length) :
    st'.Selected blocks length := by
  unfold Store.Selected
  rwa [Store.usedBlocks_of_keeps hcat hg]

theorem Store.canOpen_of_keeps {key : Nat} (h : st.CanOpen key) : st'.CanOpen key := by
  obtain ⟨hcount, e, he, hkey, hlive⟩ := h
  refine ⟨(Store.openCount_of_keeps hcat hg).trans_lt hcount, g e, ?_, (hg e).key.trans hkey, (hg e).shadow.trans hlive⟩
  rw [hcat]
  exact List.mem_map_of_mem he

theorem Store.absent_of_keeps {key : Nat} (h : ∀ e ∈ st.catalog, e.key ≠ key) : ∀ e ∈ st'.catalog, e.key ≠ key := by
  rw [hcat, List.forall_mem_map]
  exact fun e he => (hg e).key ▸ h e he

omit hg in
theorem Store.present_of_keeps {p : Entry → Prop} (hp : ∀ e, p e → p (g e)) (h : ∃ e ∈ st.catalog, p e) :
    ∃ e ∈ st'.catalog, p e := by
  obtain ⟨e, he, hpe⟩ := h
  exact ⟨g e, hcat ▸ List.mem_map_of_mem he, hp e hpe⟩

/-- The request in hand stays backed. -/
theorem Store.backs_of_keeps {w : Work} (h : st.Backs w) : st'.Backs w := by
  cases w with
  | create key length blocks check counters =>
    obtain ⟨hkey, hlen, hsel, hcount, habsent, hroom⟩ := h
    exact ⟨hkey, hlen, Store.selected_of_keeps hcat hg hsel, hcount, Store.absent_of_keeps hcat hg habsent,
      by simpa [hcat] using hroom⟩
  | openVerify key newLength copyIn =>
    obtain ⟨hlen, hcan, hspace⟩ := h
    exact ⟨hlen, Store.canOpen_of_keeps hcat hg hcan, by rwa [Store.freeBlocks_of_keeps hcat hg]⟩
  | openFill key newLength copyIn blocks =>
    obtain ⟨hlen, hcan, hsel⟩ := h
    exact ⟨hlen, Store.canOpen_of_keeps hcat hg hcan, Store.selected_of_keeps hcat hg hsel⟩
  | readVerify key offset count =>
    exact Store.present_of_keeps hcat (fun e => by rw [(hg e).key, (hg e).length]; exact id) h
  | close key check =>
    exact Store.present_of_keeps hcat (fun e => by rw [(hg e).key, (hg e).isOpen]; exact id) h
  | closeAll checks =>
    show _ = _
    rw [h, hcat, List.filter_map, List.map_map]
    simp only [Function.comp_def, (hg _).key, (hg _).isOpen]
  | retire key freed => exact Store.absent_of_keeps hcat hg h
  | quiesce => exact (Store.openCount_of_keeps hcat hg).trans h

end

end Sys2Proof.Machine

/-! SUPPORT. The good order of the record store, and the audited marks, after each thing a command can do. -/

namespace Sys2Proof.Machine

open Sys2Proof

/-! ### The store after each thing a command can do -/

/-- The good order of the store is a matter of the catalog alone. -/
theorem Store.wf_of_catalog {st st' : Store} (hcat : st'.catalog = st.catalog) (h : st.Wf) : st'.Wf :=
  Store.wf_of_keeps (g := id) (hcat.trans (List.map_id _).symm) Entry.Keeps.refl h

theorem Store.backs_of_catalog {st st' : Store} (hcat : st'.catalog = st.catalog) {w : Work} (h : st.Backs w) :
    st'.Backs w :=
  Store.backs_of_keeps (g := id) (hcat.trans (List.map_id _).symm) Entry.Keeps.refl h

/-- The end of open changes leaves the store in good order. -/
theorem Store.wf_of_closes {st st' : Store} {g : Entry → Entry} (hcat : st'.catalog = st.catalog.map g)
    (hg : ∀ e : Entry, e.Closes (g e)) (h : st.Wf) : st'.Wf := by
  obtain ⟨hsorted, hlength, hopen, hentries, hnodup⟩ := h
  refine ⟨?_, by simpa [hcat] using hlength, ?_, ?_, ?_⟩
  · rw [hcat, List.pairwise_map]
    simpa only [(hg _).key] using hsorted
  · refine le_trans ?_ hopen
    simp only [Store.openCount, hcat, List.countP_map]
    refine List.countP_mono_left fun e _ he => ?_
    simp only [Function.comp_apply] at he
    rwa [← (hg e).isOpen he]
  · rw [hcat, List.forall_mem_map]
    exact fun e he => (hg e).wf (hentries e he)
  · refine hnodup.sublist ?_
    simp only [Store.usedBlocks, hcat, List.flatMap_map]
    exact List.Sublist.flatMap_right _ fun e _ => (hg e).places

/-- Records that leave the catalog leave the rest in good order. -/
theorem Store.wf_of_filter {st st' : Store} {p : Entry → Bool} (hcat : st'.catalog = st.catalog.filter p) (h : st.Wf) :
    st'.Wf := by
  obtain ⟨hsorted, hlength, hopen, hentries, hnodup⟩ := h
  have hsub : st'.catalog.Sublist st.catalog := hcat ▸ List.filter_sublist
  exact ⟨hsorted.sublist hsub, hsub.length_le.trans hlength, hsub.countP_le.trans hopen,
    fun e he => hentries e (hsub.subset he), hnodup.sublist (hsub.flatMap _)⟩

/-- The entry step of a CREATE that is backed. -/
theorem Store.wf_of_entered {st st' : Store} {key length : Nat} {blocks : List Block} {check : Half}
    {counters : List Counter}
    (hcat : st'.catalog = insertEntry (newEntry key length blocks check counters) st.catalog)
    (hback : st.Backs (.create key length blocks check counters)) (h : st.Wf) : st'.Wf := by
  obtain ⟨hsorted, hlength, hopen, hentries, hnodup⟩ := h
  obtain ⟨hkey, hlen, ⟨hblocks, hdistinct, hfree⟩, hcount, habsent, hroom⟩ := hback
  have hperm : st'.catalog.Perm (newEntry key length blocks check counters :: st.catalog) :=
    hcat ▸ insertEntry_perm _ _
  have hused : st'.usedBlocks.Perm (blocks ++ st.usedBlocks) := by
    simpa [Store.usedBlocks, newEntry, Entry.shadowBlocks] using
      hperm.flatMap_right (fun e : Entry => e.blocks ++ e.shadowBlocks)
  refine ⟨hcat ▸ insertEntry_sorted hsorted habsent, ?_, ?_, ?_, ?_⟩
  · rw [hcat, insertEntry_length]
    exact hroom
  · refine le_of_eq_of_le ?_ hopen
    rw [Store.openCount, hperm.countP_eq]
    simp [newEntry, Entry.isOpen, Store.openCount]
  · intro e he
    rcases List.mem_cons.1 (hperm.mem_iff.1 he) with rfl | he
    · exact ⟨hkey, hlen, hblocks, Nat.zero_le _, hcount, by simp [newEntry]⟩
    · exact hentries e he
  · rw [hused.nodup_iff, List.nodup_append']
    exact ⟨hdistinct, hnodup, hfree⟩

/-- In a catalog with distinct keys a change of one key's entry changes the one entry that stands there. -/
theorem Store.update_split {st : Store} (h : st.catalog.Pairwise fun a b => a.key < b.key) {e : Entry}
    (he : e ∈ st.catalog) :
    ∃ before after, st.catalog = before ++ e :: after ∧
      ∀ f, (st.update e.key f).catalog = before ++ f e :: after := by
  obtain ⟨before, after, hsplit⟩ := List.append_of_mem he
  refine ⟨before, after, hsplit, fun f => ?_⟩
  rw [hsplit, List.pairwise_append, List.pairwise_cons] at h
  obtain ⟨-, ⟨hafter, -⟩, hbefore⟩ := h
  have hother : ∀ l : List Entry, (∀ x ∈ l, x.key ≠ e.key) → l.map (Entry.underKey e.key f) = l := fun l hl =>
    (List.map_congr_left fun x hx => if_neg (hl x hx)).trans (List.map_id _)
  rw [Store.update_catalog, hsplit, List.map_append, List.map_cons, hother before, hother after]
  · simp [Entry.underKey]
  · exact fun x hx => (hafter x hx).ne'
  · exact fun x hx => (hbefore x hx e List.mem_cons_self).ne

/-- The entry step of an OPEN-CHANGE that is backed. -/
theorem Store.wf_of_opened {st st' : Store} {key newLength : Nat} {copyIn : Bool} {blocks : List Block}
    (hcat : st'.catalog = (st.update key fun e =>
      { e with shadow := some { newLength := newLength, blocks := blocks, copyIn := copyIn } }).catalog)
    (hback : st.Backs (.openFill key newLength copyIn blocks)) (h : st.Wf) : st'.Wf := by
  obtain ⟨hsorted, hlength, hopen, hentries, hnodup⟩ := h
  obtain ⟨hlen, ⟨hroom, e, he, rfl, hlive⟩, hblocks, hdistinct, hfree⟩ := hback
  obtain ⟨before, after, hsplit, hupdate⟩ := Store.update_split hsorted he
  rw [hupdate] at hcat
  have hused : st'.usedBlocks.Perm (blocks ++ st.usedBlocks) := by
    simp only [Store.usedBlocks, hcat, hsplit, Entry.shadowBlocks, hlive, List.flatMap_append, List.flatMap_cons]
    grind
  refine ⟨?_, ?_, ?_, ?_, ?_⟩
  · refine sorted_keys ?_ hsorted
    simp [hcat, hsplit]
  · simpa [hcat, hsplit] using hlength
  · refine le_trans (le_of_eq ?_) hroom
    simp only [Store.openCount, hcat, hsplit, List.countP_append, List.countP_cons, Entry.isOpen, hlive]
    simp
    omega
  · rw [hcat]
    rw [hsplit] at hentries
    simp only [List.forall_mem_append, List.forall_mem_cons] at hentries ⊢
    obtain ⟨hb, ⟨h1, h2, h3, h4, h5, -⟩, ha⟩ := hentries
    refine ⟨hb, ⟨h1, h2, h3, h4, h5, ?_⟩, ha⟩
    rintro sh ⟨⟩
    exact ⟨hlen, hblocks⟩
  · rw [hused.nodup_iff, List.nodup_append']
    exact ⟨hdistinct, hnodup, hfree⟩

/-- The fill stage of an OPEN-CHANGE whose verification is backed. -/
theorem Store.backs_of_verified {st st' : Store} {key newLength : Nat} {copyIn : Bool}
    (hcat : st'.catalog = (st.verify key).catalog) (hback : st.Backs (.openVerify key newLength copyIn)) :
    st'.Backs (.openFill key newLength copyIn (st.lowestFree (blocksFor newLength))) := by
  obtain ⟨hlen, hcan, hspace⟩ := hback
  have hfilled : st.Backs (.openFill key newLength copyIn (st.lowestFree (blocksFor newLength))) := by
    refine ⟨hlen, hcan, Store.lowestFree_selected ?_⟩
    rw [← Bool.not_eq_true, Store.lacksSpace_iff]
    omega
  exact Store.backs_of_keeps hcat (Entry.underKey_keeps st.verifiedEntry_keeps) hfilled

/-! ### The store and the request in hand -/

theorem State.WorkKept.forall {s t : State} (h : s.WorkKept t) {p : Work → Prop} (hp : ∀ w ∈ s.window.work, p w) :
    ∀ w ∈ t.window.work, p w := by
  rcases h with h | h <;> rw [h]
  · exact hp
  · simp

/-- The record store stays in good order, with the request in hand. -/
theorem StoreStep.storeWf {s t : State} {c : Instr} (h : StoreStep s t c) (hs : s.StoreWf) : t.StoreWf := by
  obtain ⟨hwf, hwork⟩ := hs
  cases h with
  | kept c g hcat hg hflag hkept =>
    exact ⟨Store.wf_of_keeps hcat hg hwf, hkept.forall fun w hw => Store.backs_of_keeps hcat hg (hwork w hw)⟩
  | held c w hin hcat hflag hbacks =>
    refine ⟨Store.wf_of_catalog hcat hwf, ?_⟩
    simpa [hin] using Store.backs_of_catalog hcat hbacks
  | entered key length blocks check counters hin hnone hcat =>
    exact ⟨Store.wf_of_entered hcat (hwork _ hin) hwf, by simp [hnone]⟩
  | retired key freed hin hcat =>
    refine ⟨Store.wf_of_filter hcat hwf, ?_⟩
    simp [hin, Store.Backs, hcat]
  | verified key newLength copyIn hin hout hcat =>
    refine ⟨Store.wf_of_keeps hcat (Entry.underKey_keeps s.store.verifiedEntry_keeps) hwf, ?_⟩
    simpa [hout] using Store.backs_of_verified hcat (hwork _ hin)
  | opened key newLength copyIn blocks hin hnone hcat =>
    exact ⟨Store.wf_of_opened hcat (hwork _ hin) hwf, by simp [hnone]⟩
  | closed c g hnone hcat hg => exact ⟨Store.wf_of_closes hcat hg hwf, by simp [hnone]⟩
  | faulted faults hnone hstore => exact ⟨hstore ▸ Store.faults_wf hwf false faults, by simp [hnone]⟩
  | cleared hnone hcat =>
    refine ⟨?_, by simp [hnone]⟩
    simp [Store.Wf, Store.openCount, Store.usedBlocks, hcat]

/-! ### The audited marks -/

/-- An entry still OPEN after a fall has not changed. -/
theorem Store.mem_of_mem_faults {busy : Bool} {st : Store} {faults : List RetentionFault} {e : Entry}
    (he : e ∈ (faults.foldl (Store.fault busy) st).catalog) (ho : e.isOpen = true) : e ∈ st.catalog := by
  induction faults generalizing st with
  | nil => exact he
  | cons f rest ih =>
    have hmem := ih he
    rcases Store.fault_cases busy st f with ⟨a, v, _, hf⟩ | hf | ⟨_, c, _, hf⟩ <;> rw [hf] at hmem
    · exact hmem
    · exact hmem
    · obtain ⟨x, hx, rfl | ⟨_, hc, rfl⟩⟩ := Store.mem_faultEntry hmem
      · exact hx
      · obtain ⟨hlive, _⟩ := Entry.canFault_iff.1 hc
        simp [Entry.isOpen, hlive] at ho

theorem Store.faults_auditFlag (busy : Bool) (st : Store) (faults : List RetentionFault) :
    (faults.foldl (Store.fault busy) st).auditFlag = st.auditFlag := by
  obtain ⟨m, c, h⟩ := Store.faults_frame busy st faults
  rw [h]

/-- The audited mark of every OPEN record, and of one whose change is being opened, stays set while the audit runs. -/
theorem StoreStep.auditWf {s t : State} {c : Instr} (h : StoreStep s t c) (hs : s.StoreWf) (ha : s.AuditWf) :
    t.AuditWf := by
  intro hrun
  cases h with
  | kept c g hcat hg hflag hkept =>
    obtain ⟨hopen, hfill⟩ := ha (hflag hrun)
    rw [hcat, List.forall_mem_map]
    refine ⟨fun e he ho => (hg e).audited (hopen e he ((hg e).isOpen ▸ ho)), fun key n ci blocks hw => ?_⟩
    rw [List.forall_mem_map]
    intro e he hkey
    rcases hkept with hw' | hw' <;> rw [hw'] at hw
    · exact (hg e).audited (hfill key n ci blocks hw e he ((hg e).key ▸ hkey))
    · cases hw
  | held c w hin hcat hflag hbacks hverified =>
    obtain ⟨hopen, -⟩ := ha (hflag ▸ hrun)
    rw [hcat]
    refine ⟨hopen, fun key n ci blocks hw e he hkey => ?_⟩
    obtain ⟨x, hfind, hmust⟩ := hverified key n ci blocks (Option.some.inj (hin.symm.trans hw))
    have hsame : x = e := Option.some.inj (hfind.symm.trans ((Store.find_iff hs.1.1).2 ⟨he, hkey⟩))
    subst hsame
    simpa [Store.mustVerify, hflag ▸ hrun] using hmust
  | entered key length blocks check counters hin hnone hcat hflag =>
    obtain ⟨hopen, -⟩ := ha (hflag ▸ hrun)
    refine ⟨fun e he ho => ?_, by simp [hnone]⟩
    rcases mem_insertEntry.1 (hcat ▸ he) with rfl | he
    · rfl
    · exact hopen e he ho
  | retired key freed hin hcat hflag =>
    obtain ⟨hopen, -⟩ := ha (hflag ▸ hrun)
    refine ⟨fun e he => ?_, by simp [hin]⟩
    exact hopen e (List.mem_of_mem_filter (hcat ▸ he))
  | verified key newLength copyIn hin hout hcat hflag =>
    obtain ⟨hopen, -⟩ := ha (hflag ▸ hrun)
    have hg := Entry.underKey_keeps (key := key) s.store.verifiedEntry_keeps
    change _ = s.store.catalog.map (Entry.underKey key s.store.verifiedEntry) at hcat
    rw [hcat, List.forall_mem_map]
    refine ⟨fun e he ho => (hg e).audited (hopen e he ((hg e).isOpen ▸ ho)), fun k n ci blocks hw => ?_⟩
    rw [hout] at hw
    cases hw
    rw [List.forall_mem_map]
    intro e he hkey
    rw [(hg e).key] at hkey
    simp [Entry.underKey, hkey, Store.verifiedEntry]
  | opened key newLength copyIn blocks hin hnone hcat hflag =>
    obtain ⟨hopen, hfill⟩ := ha (hflag ▸ hrun)
    refine ⟨fun e he ho => ?_, by simp [hnone]⟩
    obtain ⟨x, hx, rfl⟩ := Store.mem_update.1 (hcat ▸ he)
    by_cases hkey : x.key = key
    · rw [if_pos hkey]
      exact hfill key newLength copyIn blocks hin x hx hkey
    · rw [if_neg hkey] at ho ⊢
      exact hopen x hx ho
  | closed c g hnone hcat hg hflag =>
    refine ⟨fun e he ho => ?_, by simp [hnone]⟩
    rcases hflag hrun with hflag | hshut
    · obtain ⟨hopen, -⟩ := ha hflag
      obtain ⟨x, hx, rfl⟩ := List.mem_map.1 (hcat ▸ he)
      have hsame := (hg x).isOpen ho
      rw [hsame] at ho ⊢
      exact hopen x hx ho
    · simp [hshut e he] at ho
  | faulted faults hnone hstore =>
    obtain ⟨hopen, -⟩ := ha (by rwa [hstore, Store.faults_auditFlag] at hrun)
    exact ⟨fun e he ho => hopen e (Store.mem_of_mem_faults (hstore ▸ he) ho) ho, by simp [hnone]⟩
  | cleared hnone hcat => simp [hcat, hnone]

end Sys2Proof.Machine

/-! SUPPORT. Which case of `StoreStep` each command is. -/

namespace Sys2Proof.Machine

open Sys2Proof

/-! ### The shapes a command's effect takes -/

/-- The catalog as it was, and no request taken in hand. -/
theorem StoreStep.same {s t : State} {c : Instr} (hcat : t.store.catalog = s.store.catalog)
    (hflag : t.store.auditFlag = true → s.store.auditFlag = true) (hwork : s.WorkKept t) : StoreStep s t c :=
  .kept c id (hcat.trans (List.map_id _).symm) Entry.Keeps.refl hflag hwork

/-- One key's entry changed with its record kept. -/
theorem StoreStep.updated {s t : State} {c : Instr} {key : Nat} {f : Entry → Entry}
    (hcat : t.store.catalog = (s.store.update key f).catalog) (hf : ∀ e : Entry, e.Keeps (f e))
    (hflag : t.store.auditFlag = true → s.store.auditFlag = true) (hwork : s.WorkKept t) : StoreStep s t c :=
  .kept c (Entry.underKey key f) hcat (Entry.underKey_keeps hf) hflag hwork

/-- An answer that changes nothing of the store. -/
theorem StoreStep.answered {s u : State} {c : Instr} (hu : u.store = s.store) (r : Result) (data : List Byte) :
    StoreStep s (u.answer r data) c := by
  refine .same ?_ ?_ (State.workKept_answer s u r data) <;> simp [hu]

/-- A submit: nothing of the store changes, or the owning block acts on the store as it stands. -/
theorem submit_storeStep {s : State} {c : Instr} {bytes : List Byte} {act : Bool → State → State}
    (hact : ∀ woke u, u.store = s.store → StoreStep s (act woke u) c) : StoreStep s (submit bytes act s) c :=
  submit_cases (P := fun t => StoreStep s t c) (.same rfl id (.inl rfl)) (.same rfl id (.inl rfl)) fun _ woke =>
    hact woke _ (by simp)

theorem State.onRecord_storeStep {s u : State} {c : Instr} {bad : Bool} {key : Half} {act : Entry → State}
    (hu : u.store = s.store) (hact : bad = false → ∀ e, s.store.find key.toNat = some e → StoreStep s (act e) c) :
    StoreStep s (u.onRecord bad key act) c :=
  State.onRecord_cases (P := fun t => StoreStep s t c) (fun _ => .answered hu _ _) (fun _ _ => .answered hu _ _)
    fun hb e he => hact hb e (hu ▸ he)

theorem State.onCounter_storeStep {s u : State} {c : Instr} (hu : u.store = s.store) (bad : Bool) (key : Half)
    (index : Byte) (act : Counter → Result × Counter × Bool) : StoreStep s (u.onCounter bad key index act) c :=
  State.onCounter_cases (P := fun t => StoreStep s t c) (fun _ => .answered hu _ _) (fun _ _ => .answered hu _ _)
    (fun _ _ _ _ => .answered hu _ _) fun _ _ _ _ _ =>
      .updated (congrArg (fun st => (Store.update st _ _).catalog) hu) (fun e => e.setCounter_keeps _ _)
        (by simp [hu]) (.inr rfl)

theorem GoodKey.of_not_badKey {key : Half} (h : badKey key = false) : GoodKey key.toNat := by
  simp [badKey] at h
  obtain ⟨h1, h2⟩ := h
  constructor <;> bv_omega

/-! ### Abandonment and the audit's start (R37, R41) -/

theorem StoreStep.abandonedAll {s t : State} {c : Instr} (hstore : t.store = s.store.abandonAll)
    (hwork : t.window.work = none) : StoreStep s t c :=
  .closed c Entry.abandoned hwork (by rw [hstore]; rfl) Entry.abandoned_closes (by rw [hstore]; exact .inl)

theorem StoreStep.restarted {s t : State} {c : Instr} (hstore : t.store = s.store.abandonAll.startAudit)
    (hwork : t.window.work = none) : StoreStep s t c := by
  refine .closed c (fun e => { e.abandoned with audited := false }) hwork ?_ (fun e => ?_) fun _ => .inr ?_
  · rw [hstore]
    simp [Store.startAudit, Store.abandonAll]
  · obtain ⟨hkey, hcounters, hplaces, hwf, -⟩ := e.abandoned_closes
    exact ⟨hkey, hcounters, hplaces, hwf, fun h => by simp [Entry.isOpen, Entry.abandoned] at h⟩
  · rw [hstore]
    simp [Store.startAudit, Store.abandonAll, Entry.isOpen, Entry.abandoned]

/-- A reading leaves the store alone, begins anew at a main start, or abandons the open changes at a power-going. -/
theorem State.takeReading_storeStep {s u : State} {c : Instr} (hu : u.store = s.store) (hw : u.window = s.window)
    (r : Reading) : StoreStep s (u.takeReading r) c := by
  obtain ⟨_, _, h⟩ | ⟨_, _, h⟩ | ⟨_, _, h⟩ | ⟨_, _, h⟩ := u.takeReading_cases r <;> rw [h]
  · exact .same (by simp [hu]) (by simp [hu]) (State.workKept_of_window hw)
  · exact .restarted (by simp [hu]) rfl
  · exact .same (by simp [hu]) (by simp [hu]) (State.workKept_of_window (by simp [hw]))
  · exact .abandonedAll (by simp [hu]) rfl

/-! ### CREATE and RETIRE -/

/-- A CREATE whose every check passes is backed (R7). -/
theorem createChecks_backs {st : Store} {key length : Half} {count : Byte} {specs : List CounterSpec} {check : Half}
    {counters : List Counter} (h : firstFailing (createChecks st key length count specs) = none)
    (hc : counters.length ≤ count.toNat) :
    st.Backs (.create key.toNat length.toNat (st.lowestFree (blocksFor length.toNat)) check counters) := by
  rw [firstFailing_none] at h
  simp only [createChecks, List.forall_mem_cons, Bool.or_eq_false_iff, decide_eq_false_iff_not, beq_eq_false_iff_ne,
    Option.isSome_eq_false_iff, Option.isNone_iff_eq_none] at h
  obtain ⟨hkey, ⟨hzero, hmax⟩, hcount, -, habsent, hroom, hspace, -⟩ := h
  have hpos : length.toNat ≠ 0 := fun h0 => hzero (BitVec.eq_of_toNat_eq h0)
  exact ⟨.of_not_badKey hkey, ⟨by omega, by omega⟩, Store.lowestFree_selected hspace, by omega,
    Store.find_none.1 habsent, by omega⟩

theorem execCreate_storeStep {key length : Half} {fill count : Byte} {c0 c1 c2 c3 : CounterSpec} {s t : State}
    (h : exec (.create key length fill count c0 c1 c2 c3) s = .next t) :
    StoreStep s t (.create key length fill count c0 c1 c2 c3) := by
  cases h
  refine submit_storeStep fun _ u hu => ?_
  split
  · exact .answered hu _ _
  · rename_i hchecks
    rw [hu] at hchecks
    refine .held _ _ rfl (by rw [← hu]; rfl) (by rw [← hu]; rfl) ?_ (by rintro _ _ _ _ ⟨⟩)
    rw [hu]
    exact createChecks_backs hchecks (by simp)

theorem execEntryStep_storeStep {s t : State} (h : exec .entryStep s = .next t) : StoreStep s t .entryStep := by
  cases h
  split
  · exact .entered _ _ _ _ _ ‹_› rfl rfl rfl
  · exact .same rfl id (.inl rfl)

theorem execRetire_storeStep {key : Half} {s t : State} (h : exec (.retire key) s = .next t) :
    StoreStep s t (.retire key) := by
  cases h
  refine submit_storeStep fun _ u hu => State.onRecord_storeStep hu fun _ e _ => ?_
  split
  · exact .answered hu _ _
  · exact .retired key _ rfl (by rw [← hu]; rfl) (by rw [← hu]; rfl)

/-! ### OPEN-CHANGE and the verification -/

/-- What the checks of OPEN-CHANGE leave when all of them pass (R20). -/
theorem openChecks_passed {st : Store} {key newLength : Half}
    (h : firstFailing (openChecks st key newLength) = none) {e : Entry} (he : st.find key.toNat = some e) :
    GoodLength newLength.toNat ∧ st.CanOpen e.key ∧ st.lacksSpace (blocksFor newLength.toNat) = false := by
  rw [firstFailing_none] at h
  simp only [openChecks, he, List.forall_mem_cons, Bool.or_eq_false_iff, decide_eq_false_iff_not, beq_eq_false_iff_ne,
    Option.any_some, Entry.isOpen, Option.isSome_eq_false_iff, Option.isNone_iff_eq_none] at h
  obtain ⟨-, ⟨hzero, hmax⟩, -, hlive, hroom, hspace, -⟩ := h
  have hpos : newLength.toNat ≠ 0 := fun h0 => hzero (BitVec.eq_of_toNat_eq h0)
  exact ⟨⟨by omega, by omega⟩, ⟨by omega, e, (Store.find_some he).1, rfl, hlive⟩, hspace⟩

theorem execOpenChange_storeStep {key newLength : Half} {copyIn : Byte} {s t : State}
    (h : exec (.openChange key newLength copyIn) s = .next t) : StoreStep s t (.openChange key newLength copyIn) := by
  cases h
  refine submit_storeStep fun _ u hu => ?_
  rw [hu]
  split
  · exact .answered hu _ _
  · exact .answered hu _ _
  · rename_i e hchecks hfind
    obtain ⟨hlen, hcan, hspace⟩ := openChecks_passed hchecks hfind
    have hkey := (Store.find_some hfind).2
    split
    · refine .held _ _ rfl (congrArg Store.catalog hu) (congrArg Store.auditFlag hu) ⟨hlen, hkey ▸ hcan, ?_⟩
        (by rintro _ _ _ _ ⟨⟩)
      rw [← not_lt, ← Store.lacksSpace_iff, hspace]
      decide
    · rename_i hmust
      refine .held _ _ rfl (by rw [← hu]; rfl) (by rw [← hu]; rfl) ⟨hlen, hcan, ?_⟩ ?_
      · rw [hu]
        exact Store.lowestFree_selected hspace
      · rintro _ _ _ _ ⟨⟩
        exact ⟨e, hkey ▸ hfind, by simpa using hmust⟩

theorem execOpenChangeEntry_storeStep {s t : State} (h : exec .openChangeEntry s = .next t) :
    StoreStep s t .openChangeEntry := by
  cases h
  split
  · split
    · exact .opened _ _ _ _ ‹_› rfl rfl rfl
    · exact .same rfl id (.inl rfl)
  · exact .same rfl id (.inl rfl)

theorem execVerification_storeStep {s t : State} (h : exec .verification s = .next t) : StoreStep s t .verification := by
  cases h
  split
  · rename_i key newLength copyIn hin
    split
    · rename_i e hfind
      refine .verified key newLength copyIn hin ?_ rfl rfl
      rw [← (Store.find_some hfind).2]
      have hfree : (s.store.verify e.key).freeBlocks = s.store.freeBlocks :=
        Store.freeBlocks_of_keeps rfl (Entry.underKey_keeps s.store.verifiedEntry_keeps)
      simp only [State.fillOpen, State.holdWork_work, Store.lowestFree, hfree]
    · exact .same rfl id (.inl rfl)
  · split
    · exact .updated rfl s.store.verifiedEntry_keeps id (.inr rfl)
    · exact .same rfl id (.inl rfl)
  · exact .same rfl id (.inl rfl)

/-! ### Pieces, closing, abandoning -/

theorem execWritePiece_storeStep {key offset : Half} {count : Byte} {s t : State}
    (h : exec (.writePiece key offset count) s = .next t) : StoreStep s t (.writePiece key offset count) := by
  cases h
  refine submit_storeStep fun _ u hu => State.onRecord_storeStep hu fun _ e _ => ?_
  split
  · exact .answered hu _ _
  · split
    · exact .answered hu _ _
    · exact .same (by rw [← hu]; rfl) (by simp [hu]) (.inr rfl)

theorem execReadPiece_storeStep {key offset : Half} {count source : Byte} {s t : State}
    (h : exec (.readPiece key offset count source) s = .next t) : StoreStep s t (.readPiece key offset count source) := by
  cases h
  refine submit_storeStep fun _ u hu => State.onRecord_storeStep hu fun _ e hfind => ?_
  obtain ⟨hmem, hkey⟩ := Store.find_some hfind
  have delivered (blocks : List Block) (code : Byte) :
      StoreStep s (u.deliverPiece e blocks offset.toNat count.toNat code) (.readPiece key offset count source) :=
    .same (congrArg Store.catalog hu) (by simp [hu]) (.inr rfl)
  split
  · split
    · exact .answered hu _ _
    · rename_i hlength
      split
      · exact .held _ _ rfl (congrArg Store.catalog hu) (congrArg Store.auditFlag hu) ⟨e, hmem, hkey, by omega⟩
          (by rintro _ _ _ _ ⟨⟩)
      · exact delivered _ _
  · split
    · exact .answered hu _ _
    · split
      · exact .answered hu _ _
      · exact delivered _ _

theorem execCloseChange_storeStep {key : Half} {s t : State} (h : exec (.closeChange key) s = .next t) :
    StoreStep s t (.closeChange key) := by
  cases h
  refine submit_storeStep fun _ u hu => State.onRecord_storeStep hu fun _ e hfind => ?_
  obtain ⟨hmem, hkey⟩ := Store.find_some hfind
  split
  · exact .answered hu _ _
  · rename_i sh hshadow
    exact .held _ _ rfl (congrArg Store.catalog hu) (congrArg Store.auditFlag hu)
      ⟨e, hmem, hkey, by simp [Entry.isOpen, hshadow]⟩ (by rintro _ _ _ _ ⟨⟩)

/-- The checks CLOSE-ALL holds name the OPEN records, in the catalog's order (R30). -/
theorem Store.openChecks_keys (st : Store) :
    st.openChecks.map Prod.fst = (st.catalog.filter Entry.isOpen).map Entry.key := by
  simp only [Store.openChecks]
  induction st.catalog with
  | nil => rfl
  | cons e rest ih => cases hs : e.shadow <;> simp [Entry.isOpen, hs, ih]

theorem execCloseAll_storeStep {s t : State} (h : exec .closeAll s = .next t) : StoreStep s t .closeAll := by
  cases h
  refine submit_storeStep fun _ u hu => ?_
  split
  · exact .answered hu _ _
  · refine .held _ _ rfl (congrArg Store.catalog hu) (congrArg Store.auditFlag hu) ?_ (by rintro _ _ _ _ ⟨⟩)
    exact hu ▸ u.store.openChecks_keys

theorem StoreStep.swapped {s u : State} {c : Instr} {checks : List (Nat × Half)}
    (hstore : u.store = s.store.swap checks) (r : Result) (data : List Byte) : StoreStep s (u.answer r data) c :=
  .closed c (Entry.swappedBy checks) rfl (by rw [State.answer_store, hstore, Store.swap_catalog])
    (Entry.swappedBy_closes checks) (by rw [State.answer_store, hstore, Store.swap_auditFlag]; exact .inl)

theorem execSwapStage_storeStep {s t : State} (h : exec .swapStage s = .next t) : StoreStep s t .swapStage := by
  cases h
  split
  · split
    · exact .swapped rfl _ _
    · exact .same rfl id (.inl rfl)
  · exact .swapped rfl _ _
  · exact .same rfl id (.inl rfl)

theorem execAbandonChange_storeStep {key : Half} {s t : State} (h : exec (.abandonChange key) s = .next t) :
    StoreStep s t (.abandonChange key) := by
  cases h
  refine submit_storeStep fun _ u hu => State.onRecord_storeStep hu fun _ e _ => ?_
  split
  · exact .answered hu _ _
  · exact .closed _ (Entry.underKey key.toNat Entry.abandoned) rfl (by rw [← hu]; rfl)
      (Entry.underKey_closes Entry.abandoned_closes) (by rw [← hu]; exact .inl)

/-! ### The audit, tend actions, the keep supply, QUIESCE -/

theorem execAuditStep_storeStep {s t : State} (h : exec .auditStep s = .next t) : StoreStep s t .auditStep := by
  cases h
  split
  · split
    · split
      · exact .same rfl id (.inl rfl)
      · exact .updated rfl s.store.verifiedEntry_keeps id (.inl rfl)
    · exact .same rfl (fun h => by cases h) (.inl rfl)
  · exact .same rfl id (.inl rfl)

theorem execTendAction_storeStep {s t : State} (h : exec .tendAction s = .next t) : StoreStep s t .tendAction := by
  cases h
  split
  · rename_i a rest _ _
    obtain ⟨_, htend⟩ | ⟨x, _, htend⟩ := s.store.tend_cases a <;> rw [htend]
    · exact .same rfl id (.inl rfl)
    · exact .updated rfl (fun e => e.setCounter_keeps _ _) id (.inl rfl)
  · exact .same rfl id (.inl rfl)
  · exact .same rfl id (.inl rfl)

/-- A fall of the keep supply changes no entry while a request is in hand. -/
theorem Store.faults_busy_catalog (st : Store) (faults : List RetentionFault) :
    (faults.foldl (Store.fault true) st).catalog = st.catalog := by
  induction faults generalizing st with
  | nil => rfl
  | cons f rest ih =>
    rw [List.foldl_cons, ih]
    cases f <;> rfl

theorem execRetentionDoubtful_storeStep {faults : List RetentionFault} {s t : State}
    (h : exec (.retentionDoubtful faults) s = .next t) : StoreStep s t (.retentionDoubtful faults) := by
  cases h
  split
  · cases hbusy : s.window.busy with
    | true =>
      exact .same (s.store.faults_busy_catalog faults) (by rw [Store.faults_auditFlag]; exact id) (.inl rfl)
    | false => exact .faulted faults (by simpa [Window.busy] using hbusy) rfl
  · exact .same rfl id (.inl rfl)

theorem execQuiesce_storeStep {s t : State} (h : exec .quiesce s = .next t) : StoreStep s t .quiesce := by
  cases h
  refine submit_storeStep fun _ u hu => ?_
  split
  · exact .answered hu _ _
  · rename_i hopen
    refine .held _ .quiesce rfl (congrArg Store.catalog hu) (congrArg Store.auditFlag hu) ?_ (by rintro _ _ _ _ ⟨⟩)
    show s.store.openCount = 0
    rw [← hu]
    omega

/-! ### Every command -/

/-- A command that neither changes the record store nor takes a request in hand. -/
theorem StoreStep.of_frame {c : Instr} {s t : State} (hstore : Instr.changesStore c = false)
    (hwork : Instr.takesInHand c = false)
    (h : exec c s = .next t) : StoreStep s t c := by
  have hsame := exec_keeps_store hstore h
  exact .same (congrArg Store.catalog hsame) (by simp [hsame]) (exec_keeps_work hwork h)

/-- Everything a command can do to the record store and to the request in hand. -/
theorem exec_storeStep {c : Instr} {s t : State} (h : exec c s = .next t) : StoreStep s t c := by
  cases c
  case create => exact execCreate_storeStep h
  case entryStep => exact execEntryStep_storeStep h
  case retire => exact execRetire_storeStep h
  case openChange => exact execOpenChange_storeStep h
  case openChangeEntry => exact execOpenChangeEntry_storeStep h
  case writePiece => exact execWritePiece_storeStep h
  case readPiece => exact execReadPiece_storeStep h
  case verification => exact execVerification_storeStep h
  case closeChange => exact execCloseChange_storeStep h
  case closeAll => exact execCloseAll_storeStep h
  case swapStage => exact execSwapStage_storeStep h
  case abandonChange => exact execAbandonChange_storeStep h
  case auditStep => exact execAuditStep_storeStep h
  case readCounter | adjustCounter | setCounter | swapCounter | setBounds =>
    cases h
    exact submit_storeStep fun _ _ hu => State.onCounter_storeStep hu _ _ _ _
  case tendAction => exact execTendAction_storeStep h
  case ackNotice =>
    cases h
    exact submit_storeStep fun _ _ hu => .same (by rw [← hu]; rfl) (by rw [← hu]; exact id) (.inr rfl)
  case quiesce => exact execQuiesce_storeStep h
  case retentionDoubtful => exact execRetentionDoubtful_storeStep h
  case supplyReading | wakeEvent =>
    cases h
    split
    · exact State.takeReading_storeStep (by rfl) (by rfl) _
    · exact .same rfl id (.inl rfl)
  case minuteEvent =>
    cases h
    split
    · exact .same rfl id (.inl rfl)
    · dsimp only
      split
      · exact .same rfl id (.inl rfl)
      · split
        · exact .same rfl id (.inl rfl)
        · exact State.takeReading_storeStep (by rfl) (by rfl) _
  case consoleReset =>
    cases h
    dsimp only
    split
    · exact .restarted rfl rfl
    · exact .same rfl id (.inl rfl)
  case cellReset =>
    cases h
    exact .cleared rfl rfl
  all_goals exact .of_frame rfl rfl h

end Sys2Proof.Machine

/-! The invariants of every step: the record store (O23) and the targets of the events (O40). -/

namespace Sys2Proof.Machine

open Sys2Proof

/-- A step idles, or executes the command at the front of the queue on the state with the queue's rest. -/
theorem step_cases {s t : State} (h : step s = .next t) :
    t = s ∨ ∃ c rest, exec c { s with pending := rest } = .next t := by
  unfold step at h
  split at h
  · cases h
    exact .inl rfl
  · exact .inr ⟨_, _, h⟩

/-- What does not depend on the queue and is kept by every command is kept by every step. -/
theorem step_keeps {P : State → Prop} (hqueue : ∀ s rest, P s → P { s with pending := rest })
    (hexec : ∀ c s t, P s → exec c s = .next t → P t) {s t : State} (hs : P s) (h : step s = .next t) : P t := by
  obtain rfl | ⟨c, rest, h⟩ := step_cases h
  · exact hs
  · exact hexec c _ _ (hqueue s rest hs) h

/-- Settles O23: every command's effect on the store is one of `StoreStep`'s, and each keeps the good order of the store
and the audited marks. -/
theorem recordStoreKept : Obligations.RecordStoreKept := by
  refine ⟨fun s t hs h => ?_, fun s t hs ha h => ?_⟩
  · exact step_keeps (P := State.StoreWf) (fun _ _ => id) (fun _ _ _ hs h => (exec_storeStep h).storeWf hs) hs h
  · exact (step_keeps (P := fun s => s.StoreWf ∧ s.AuditWf) (fun _ _ => id)
      (fun _ _ _ ⟨hs, ha⟩ h => ⟨(exec_storeStep h).storeWf hs, (exec_storeStep h).auditWf hs ha⟩) ⟨hs, ha⟩ h).2

/-! ### Records stay where their events name them -/

/-- A fall of the keep supply leaves every record in the catalog, with as many counters. -/
theorem Store.faults_record {busy : Bool} {st : Store} {faults : List RetentionFault} {r : Entry} (hr : r ∈ st.catalog) :
    ∃ r' ∈ (faults.foldl (Store.fault busy) st).catalog, r'.key = r.key ∧ r'.counters.length = r.counters.length := by
  induction faults generalizing st r with
  | nil => exact ⟨r, hr, rfl, rfl⟩
  | cons f rest ih =>
    have hone : ∃ x ∈ (st.fault busy f).catalog, x.key = r.key ∧ x.counters.length = r.counters.length := by
      rcases Store.fault_cases busy st f with ⟨a, v, _, hf⟩ | hf | ⟨_, c, _, hf⟩ <;> rw [hf]
      · exact ⟨r, hr, rfl, rfl⟩
      · exact ⟨r, hr, rfl, rfl⟩
      · have hmem := List.mem_map_of_mem (f := fun e : Entry => (e.key, e.shadow, e.counters.length)) hr
        rw [← st.faultEntry_keeps c] at hmem
        obtain ⟨x, hx, heq⟩ := List.mem_map.1 hmem
        simp only [Prod.mk.injEq] at heq
        exact ⟨x, hx, heq.1, heq.2.2⟩
    obtain ⟨x, hx, hkey, hcount⟩ := hone
    obtain ⟨y, hy, hkey', hcount'⟩ := ih hx
    exact ⟨y, hy, hkey'.trans hkey, hcount'.trans hcount⟩

/-- A record leaves the catalog only by its RETIRE and a cell reset, and its number of counters never changes. -/
theorem StoreStep.record {s t : State} {c : Instr} (h : StoreStep s t c) {r : Entry} (hr : r ∈ s.store.catalog)
    (hretire : ∀ key, c = .retire key → r.key ≠ key.toNat) (hreset : c ≠ .cellReset) :
    ∃ r' ∈ t.store.catalog, r'.key = r.key ∧ r'.counters.length = r.counters.length := by
  have mapped {g : Entry → Entry} (hcat : t.store.catalog = s.store.catalog.map g) : g r ∈ t.store.catalog :=
    hcat ▸ List.mem_map_of_mem hr
  cases h with
  | kept c g hcat hg => exact ⟨g r, mapped hcat, (hg r).key, (hg r).counters⟩
  | held c w _ hcat => exact ⟨r, hcat ▸ hr, rfl, rfl⟩
  | entered key length blocks check counters _ _ hcat => exact ⟨r, hcat ▸ mem_insertEntry.2 (.inr hr), rfl, rfl⟩
  | retired key freed _ hcat =>
    refine ⟨r, hcat ▸ List.mem_filter.2 ⟨hr, ?_⟩, rfl, rfl⟩
    simpa using hretire key rfl
  | verified key newLength copyIn _ _ hcat =>
    have hk := Entry.underKey_keeps (key := key) s.store.verifiedEntry_keeps r
    exact ⟨_, mapped hcat, hk.key, hk.counters⟩
  | opened key newLength copyIn blocks _ _ hcat =>
    refine ⟨_, mapped hcat, ?_⟩
    dsimp only
    split <;> simp
  | closed c g _ hcat hg => exact ⟨g r, mapped hcat, (hg r).key, (hg r).counters⟩
  | faulted faults _ hstore => exact hstore ▸ Store.faults_record hr
  | cleared => exact absurd rfl hreset

/-! ### The actions the event table holds -/

/-- Every TEND action of the later table stood in the same slot of the earlier one. -/
def Engine.TendsFrom (en en' : Engine) : Prop :=
  ∀ i, ∀ e' ∈ en'.slots.get i, ∀ key index step, e'.action = .tend key index step →
    ∃ e ∈ en.slots.get i, e.action = .tend key index step

theorem Engine.TendsFrom.refl (en : Engine) : en.TendsFrom en := fun _ e he _ _ _ ha => ⟨e, he, ha⟩

theorem Engine.TendsFrom.trans {a b c : Engine} (h : a.TendsFrom b) (k : b.TendsFrom c) : a.TendsFrom c :=
  fun i e he key index step ha => by
    obtain ⟨x, hx, hax⟩ := k i e he key index step ha
    exact h i x hx key index step hax

theorem Engine.tendsFrom_of_slots {en en' : Engine} (h : en'.slots = en.slots) : en.TendsFrom en' :=
  fun _ e he _ _ _ ha => ⟨e, h ▸ he, ha⟩

/-- A slot's event changed, its action as it was or turned into NOTIFY. -/
theorem Engine.tendsFrom_set {en en' : Engine} {i : Slot} {e' : Option Event} (hslots : en'.slots = en.slots.set i e')
    (he' : ∀ x ∈ e', ∀ key index step, x.action = .tend key index step →
      ∃ e ∈ en.slots.get i, e.action = .tend key index step) : en.TendsFrom en' := by
  intro j x hx key index step ha
  rw [hslots, Table.get_set] at hx
  split at hx
  · subst j
    exact he' x hx key index step ha
  · exact ⟨x, hx, ha⟩

theorem Engine.evaluate_tendsFrom (en : Engine) (now : Moment) : en.TendsFrom (en.evaluate now) := by
  intro i x hx key index step ha
  rw [Engine.evaluate_get, Option.mem_map] at hx
  obtain ⟨e, he, rfl⟩ := hx
  exact ⟨e, he, by simpa using ha⟩

theorem Engine.retired_tendsFrom (en : Engine) (key : Nat) : en.TendsFrom (en.retired key) := by
  intro i x hx k index step ha
  rw [Engine.retired_get, Option.mem_map] at hx
  obtain ⟨e, he, rfl⟩ := hx
  exact ⟨e, he, (Event.retarget_action ha).2⟩

theorem Engine.free_tendsFrom (en : Engine) (i : Slot) : en.TendsFrom (en.free i) :=
  Engine.tendsFrom_set (e' := none) rfl (by simp)

theorem Engine.acknowledge_tendsFrom {en : Engine} {i : Slot} {e : Event} (he : en.slots.get i = some e) (n : Nat) :
    en.TendsFrom (en.acknowledge i e n) := by
  unfold Engine.acknowledge
  split
  · exact Engine.tendsFrom_set rfl (by rintro _ ⟨⟩ key index step ha; exact ⟨e, he, ha⟩)
  · split
    · exact en.free_tendsFrom i
    · exact Engine.tendsFrom_set rfl (by rintro _ ⟨⟩ key index step ha; exact ⟨e, he, ha⟩)

theorem Engine.answered_tendsFrom {en en' : Engine} (a : TendAnswer) (hslots : en'.slots = en.answeredSlots a) :
    en.TendsFrom en' := by
  unfold Engine.answeredSlots at hslots
  split at hslots
  · exact Engine.tendsFrom_of_slots hslots
  · refine Engine.tendsFrom_set hslots fun x hx key index step ha => ?_
    obtain ⟨e, he, rfl⟩ := Option.mem_map.1 hx
    refine ⟨e, he, ?_⟩
    unfold Event.lostTarget at ha
    split at ha
    · exact (Event.retarget_action ha).2
    · exact ha

theorem State.takeReading_tendsFrom (s : State) (r : Reading) : s.engine.TendsFrom (s.takeReading r).engine := by
  obtain ⟨_, _, h⟩ | ⟨_, _, h⟩ | ⟨_, _, h⟩ | ⟨_, _, h⟩ := s.takeReading_cases r <;> rw [h]
  · exact .refl _
  · exact s.engine.evaluate_tendsFrom _
  · exact .refl _
  · exact .refl _

/-- The commands that arm an event. -/
def Instr.arms : Instr → Bool
  | .armElapsed .. => true
  | .armDaily .. => true
  | .armWall .. => true
  | _ => false

/-- A submit keeps the TEND actions when the owning block does. -/
theorem submit_tendsFrom {s : State} {bytes : List Byte} {act : Bool → State → State}
    (hact : ∀ woke u, u.engine = s.engine → s.engine.TendsFrom (act woke u).engine) :
    s.engine.TendsFrom (submit bytes act s).engine :=
  submit_cases (P := fun t => s.engine.TendsFrom t.engine) (.refl _) (.refl _) fun _ woke => hact woke _ (by simp)

/-- Only arming gives a slot a TEND action. -/
theorem exec_tendsFrom {c : Instr} {s t : State} (harm : Instr.arms c = false) (h : exec c s = .next t) :
    s.engine.TendsFrom t.engine := by
  cases c
  case armElapsed | armDaily | armWall => cases harm
  case retire key =>
    cases h
    refine submit_tendsFrom fun _ u hu => ?_
    refine State.onRecord_cases (P := fun t => s.engine.TendsFrom t.engine) (fun _ => hu ▸ .refl _)
      (fun _ _ => hu ▸ .refl _) fun _ e _ => ?_
    split
    · exact hu ▸ .refl _
    · exact hu ▸ u.engine.retired_tendsFrom key.toNat
  case tendAction =>
    cases h
    split <;> exact .refl _
  case tendAnswer =>
    cases h
    split
    · exact Engine.answered_tendsFrom _ rfl
    · exact .refl _
    · exact .refl _
  case setWall =>
    cases h
    refine submit_tendsFrom fun _ u hu => ?_
    dsimp only
    split
    · exact hu ▸ .refl _
    · exact hu ▸ u.engine.evaluate_tendsFrom _
  case setDayTurn =>
    cases h
    refine submit_tendsFrom fun _ u hu => ?_
    split
    · exact hu ▸ .refl _
    · exact hu ▸ u.engine.evaluate_tendsFrom _
  case secondEvent =>
    cases h
    split
    · dsimp only
      split
      · exact s.engine.evaluate_tendsFrom _
      · exact .refl _
    · exact .refl _
  case minuteEvent =>
    cases h
    split
    · exact .refl _
    · dsimp only
      split
      · exact .refl _
      · split
        · exact s.engine.evaluate_tendsFrom _
        · exact (s.engine.evaluate_tendsFrom _).trans (State.takeReading_tendsFrom _ _)
  case cancelEvent =>
    cases h
    refine submit_tendsFrom fun _ u hu => ?_
    exact State.onSlot_cases (P := fun t => s.engine.TendsFrom t.engine) (hu ▸ .refl _) (hu ▸ .refl _)
      fun _ e _ _ => hu ▸ u.engine.free_tendsFrom _
  case ackDue =>
    cases h
    refine submit_tendsFrom fun _ u hu => ?_
    refine State.onSlot_cases (P := fun t => s.engine.TendsFrom t.engine) (hu ▸ .refl _) (hu ▸ .refl _)
      fun _ e _ he => ?_
    split
    · exact hu ▸ .refl _
    · exact hu ▸ Engine.acknowledge_tendsFrom he _
  case setDueThreshold =>
    cases h
    exact submit_tendsFrom fun _ u hu => hu ▸ .refl _
  case supplyReading | wakeEvent =>
    cases h
    split
    · exact State.takeReading_tendsFrom _ _
    · exact .refl _
  case consoleReset =>
    cases h
    dsimp only
    split
    · exact s.engine.evaluate_tendsFrom _
    · exact .refl _
  case cellReset =>
    cases h
    intro i e he
    simp [Engine.reset] at he
  all_goals exact Engine.tendsFrom_of_slots (congrArg Engine.slots (exec_keeps_engine rfl h))

/-! ### The targets of the events -/

/-- Targets stay good while no slot gains a TEND action and no record loses its key or a counter. -/
theorem State.targetsWf_of_tendsFrom {s t : State} (hs : s.TargetsWf) (hengine : s.engine.TendsFrom t.engine)
    (hrecords : ∀ r ∈ s.store.catalog, ∃ r' ∈ t.store.catalog, r'.key = r.key ∧ r'.counters.length = r.counters.length) :
    t.TargetsWf := by
  intro i e he key index step ha
  obtain ⟨x, hx, hax⟩ := hengine i e he key index step ha
  obtain ⟨r, hr, hkey, hindex⟩ := hs i x hx key index step hax
  obtain ⟨r', hr', hkey', hcount⟩ := hrecords r hr
  exact ⟨r', hr', hkey'.trans hkey, hcount ▸ hindex⟩

/-- An arming that has passed its checks names a record and one of its counters (R82). -/
theorem armChecks_target {s : State} {tag : Half} {bad needsWall : Bool} {a : ActionBytes}
    (h : firstFailing (armChecks s tag bad needsWall a) = none) {key index : Nat} {step : Int}
    (ha : armAction a = .tend key index step) :
    ∃ r ∈ s.store.catalog, r.key = key ∧ index < r.counters.length := by
  unfold armAction at ha
  split at ha
  · rename_i htend
    cases ha
    rw [firstFailing_none] at h
    have hcounter := h (a.action == 1 && (s.store.counterAt a.key.toNat a.index.toNat).isNone, .noCounter)
      (by simp [armChecks])
    simp only [htend, beq_self_eq_true, Bool.true_and, Option.isNone_eq_false_iff, Option.isSome_iff_exists,
      Store.counterAt, Option.bind_eq_some_iff] at hcounter
    obtain ⟨c, r, hfind, hc⟩ := hcounter
    obtain ⟨hr, hkey⟩ := Store.find_some hfind
    exact ⟨r, hr, hkey, (List.getElem?_eq_some_iff.1 hc).1⟩
  · cases ha

theorem State.armRequest_targetsWf {s : State} (hs : s.TargetsWf) (tag : Half) (bad needsWall : Bool)
    (schedule : Schedule) (a : ActionBytes) : (s.armRequest tag bad needsWall schedule a).TargetsWf := by
  refine State.armRequest_cases (P := State.TargetsWf) (fun _ => hs) fun slot hchecks _ => ?_
  obtain ⟨data, harm⟩ := s.arm_answers slot (armedEvent tag schedule a)
  have hset : { s with engine :=
      { s.engine with slots := s.engine.slots.set slot (some (armedEvent tag schedule a)) } }.TargetsWf := by
    intro i e he key index step ha
    rw [Table.get_set] at he
    split at he
    · cases he
      exact armChecks_target hchecks ha
    · exact hs i e he key index step ha
  rw [harm]
  exact State.targetsWf_of_tendsFrom hset (Engine.evaluate_tendsFrom _ _) fun r hr => ⟨r, hr, rfl, rfl⟩

/-- No event left after a retirement names the key that went. -/
theorem State.retireRecord_targetsWf {s : State} (hs : s.TargetsWf) (key : Nat) : (s.retireRecord key).TargetsWf := by
  intro i e he k index step ha
  change e ∈ (s.engine.retired key).slots.get i at he
  rw [Engine.retired_get, Option.mem_map] at he
  obtain ⟨x, hx, rfl⟩ := he
  obtain ⟨hne, hax⟩ := Event.retarget_action ha
  obtain ⟨r, hr, rfl, hindex⟩ := hs i x hx k index step hax
  exact ⟨r, List.mem_filter.2 ⟨hr, by simpa using hne⟩, rfl, hindex⟩

/-- Every command keeps the targets of the events. -/
theorem exec_keeps_targetsWf {c : Instr} {s t : State} (hs : s.TargetsWf) (h : exec c s = .next t) : t.TargetsWf := by
  have hserved (bytes : List Byte) : (s.wake.taken bytes).TargetsWf := by simpa [State.TargetsWf] using hs
  have hother (harm : Instr.arms c = false) (hretire : ∀ key, c ≠ .retire key) (hreset : c ≠ .cellReset) : t.TargetsWf :=
    State.targetsWf_of_tendsFrom hs (exec_tendsFrom harm h) fun r hr =>
      (exec_storeStep h).record hr (fun key hc => absurd hc (hretire key)) hreset
  cases c
  case armElapsed | armDaily | armWall =>
    cases h
    exact submit_cases (P := State.TargetsWf) hs hs fun _ _ => State.armRequest_targetsWf (hserved _) _ _ _ _ _
  case retire key =>
    cases h
    have hu := hserved (requestBytes (.retire key))
    refine submit_cases (P := State.TargetsWf) hs hs fun _ _ => ?_
    refine State.onRecord_cases (P := State.TargetsWf) (fun _ => hu) (fun _ _ => hu) fun _ e _ => ?_
    split
    · exact hu
    · exact State.retireRecord_targetsWf hu key.toNat
  case cellReset =>
    cases h
    intro i e he
    simp [Engine.reset] at he
  all_goals exact hother rfl (by rintro _ ⟨⟩) (by rintro ⟨⟩)

/-- Settles O40: records stay in the catalog with their counters, only arming gives an event a target, and a RETIRE turns
the events that name its key. -/
theorem targetsWfKept : Obligations.TargetsWfKept := fun _ _ hs h =>
  step_keeps (P := State.TargetsWf) (fun _ _ => id) (fun _ _ _ => exec_keeps_targetsWf) hs h

end Sys2Proof.Machine

/-! The reset (O2, O3), and the blocks of keep memory (O12). -/

namespace Sys2Proof.Machine

open Sys2Proof

/-! ### A request that is taken -/

/-- A request of a part that accepts it is served by its owning block in the state the submit leaves. -/
theorem exec_served {c : Instr} {s : State} {act : Bool → State → State} (h : s.Accepts)
    (hexec : exec c s = .next (submit (requestBytes c) act s)) :
    exec c s = .next (act (s.power.main == .doze) (s.serving c)) := by
  rw [hexec, submit_taken h]
  rfl

@[simp] theorem State.serving_store (c : Instr) (s : State) : (s.serving c).store = s.store := by simp [State.serving]
@[simp] theorem State.serving_engine (c : Instr) (s : State) : (s.serving c).engine = s.engine := by simp [State.serving]

theorem badKey_iff {key : Half} : badKey key = true ↔ key = 0 ∨ key = 0xFFFF := by simp [badKey]

theorem badKey_false {key : Half} (h0 : key ≠ 0) (h1 : key ≠ 0xFFFF) : badKey key = false := by
  rw [← Bool.not_eq_true, badKey_iff]
  tauto

/-! ### The reset (R17, R79, R105) -/

/-- Settles O2, by evaluating the reset values; that 1024 blocks are free is that none is used. -/
theorem resetValues : Obligations.ResetValues := by
  have hfree : State.reset.store.freeBlocks = List.finRange 1024 :=
    List.filter_eq_self.2 fun _ _ => rfl
  refine ⟨⟨⟨rfl, rfl, rfl, rfl, rfl, rfl⟩, ⟨fun i => Table.get_fill none i, rfl, rfl, rfl⟩,
    ⟨rfl, by rw [hfree, List.length_finRange], rfl, rfl, rfl, rfl⟩, rfl, rfl, rfl, rfl⟩, ?_⟩
  refine ⟨⟨rfl, rfl, Table.get_fill _, Table.get_fill _, Table.get_fill _⟩, ⟨rfl, rfl, rfl, rfl, rfl⟩, Table.get_fill _,
    ⟨fun w p => ?_, rfl, rfl, rfl, rfl, rfl⟩, ⟨rfl, rfl, rfl, rfl, rfl, rfl, rfl, rfl, rfl, rfl⟩, fun i => ?_, rfl, rfl,
    rfl, rfl, rfl, rfl, rfl, rfl, rfl⟩
  · simp [Sound.reset]
  · simp [Rumble.reset]

theorem Voice.reset_wf : Voice.reset.Wf := by
  simp [Voice.Wf, Voice.NoiseWf, Voice.reset, VoiceState.starvedNow]

/-- Settles O3: right after a cell reset there is no record, no event and no request in hand, and every voice, the link and
the driver stand at their main reset values. -/
theorem invariantsHoldAtReset : Obligations.InvariantsHoldAtReset := by
  have hfree (i : Slot) : State.reset.engine.slots.get i = none := Table.get_fill none i
  refine ⟨Memory.wf_nil, ⟨?_, ?_⟩, ?_, ?_, ?_, ?_, ?_, ?_, ?_, ?_, ?_, ?_⟩
  · simp [Store.Wf, Store.openCount, Store.usedBlocks, State.reset, Store.reset]
  · simp [State.reset, Window.reset]
  · simp [State.AuditWf, State.reset, Store.reset]
  · simp [State.CountersWf, State.reset, Store.reset, Window.reset]
  · simp [Calendar.Wf, State.reset, Calendar.reset, Config.maxSecond, Config.topWall]
  · simp [Engine.TableWf, hfree]
  · simp [Engine.DueListWf, Engine.isDue, State.reset, Engine.reset]
  · simp [State.TargetsWf, hfree]
  · refine ⟨fun i => ?_, by simp [State.reset, Sound.reset, Config.resetMaster, Config.maxMaster]⟩
    rw [show State.reset.sound.voices.get i = Voice.reset from Table.get_fill _ i]
    exact Voice.reset_wf
  · simp [Link.Wf, State.reset, Link.reset, Config.substitutionFull]
  · simp [Rumble.Wf, Pattern.Wf, State.reset, Rumble.reset]
  · simp [State.DozeWf, State.Quieting, State.reset, Power.reset, Window.reset, Rumble.reset, Sound.reset]

/-! ### Free blocks (R1, R2) -/

theorem Store.usedBlocks_length (st : Store) :
    st.usedBlocks.length =
      (st.catalog.map fun e => e.blocks.length).sum + (st.catalog.map fun e => e.shadowBlocks.length).sum := by
  simp [Store.usedBlocks, List.length_flatMap, List.sum_map_add]

theorem Store.mem_usedBlocks {st : Store} {b : Block} :
    b ∈ st.usedBlocks ↔ ∃ e ∈ st.catalog, b ∈ e.blocks ∨ b ∈ e.shadowBlocks := by
  simp [Store.usedBlocks]

/-- With every block in one place only, free and used blocks are all the blocks there are. -/
theorem Store.freeBlocks_length {st : Store} (h : st.usedBlocks.Nodup) :
    st.freeBlocks.length + st.usedBlocks.length = 1024 := by
  have hperm : (st.freeBlocks ++ st.usedBlocks).Perm (List.finRange 1024) := by
    refine (List.perm_ext_iff_of_nodup ?_ (List.nodup_finRange _)).2 fun b => ?_
    · exact List.nodup_append'.2 ⟨st.freeBlocks_nodup, h, fun b hb => Store.mem_freeBlocks.1 hb⟩
    · simp [Store.mem_freeBlocks, em']
  rw [← List.length_append, hperm.length_eq, List.length_finRange]

/-- A free block that is not selected stands above every selected one. -/
theorem Store.lowestFree_below {st : Store} {n : Nat} {a b : Block} (ha : a ∈ st.lowestFree n) (hb : b ∈ st.freeBlocks)
    (hn : b ∉ st.lowestFree n) : a < b := by
  have hsorted := st.freeBlocks_sorted
  rw [← List.take_append_drop n st.freeBlocks] at hb hsorted
  rcases List.mem_append.1 hb with hb | hb
  · exact absurd hb hn
  · exact (List.pairwise_append.1 hsorted).2.2 a ha b hb

/-- Settles O12: free and used blocks are a rearrangement of all blocks, and a selection is the front of the ascending list of
free ones. -/
theorem freeBlocksAndTheirSelection : Obligations.FreeBlocksAndTheirSelection := by
  rintro st ⟨-, -, -, -, hnodup⟩
  refine ⟨?_, fun b => ?_, fun n hn => ⟨by simpa [Store.lowestFree] using hn, st.lowestFree_sorted n, fun b hb =>
    Store.mem_freeBlocks.2 (Store.lowestFree_free hb), fun b hb hnot a ha => Store.lowestFree_below ha hb hnot⟩⟩
  · rw [Nat.add_assoc, ← st.usedBlocks_length]
    exact Store.freeBlocks_length hnodup
  · rw [Store.mem_freeBlocks, Store.mem_usedBlocks]
    push Not
    rfl

end Sys2Proof.Machine

/-! The catalog readers (O15) and RETIRE (O16). -/

namespace Sys2Proof.Machine

open Sys2Proof

/-! ### INFO, LIST, STORE-SPACE (R11 to R13) -/

theorem infoData_eq (e : Entry) :
    infoData e =
      [flag1 e.shadow.isSome] ++ nat2 e.length ++ nat2 e.generation ++
        [flag1 e.damage, flag1 e.audited, nat1 e.counters.length, nat1 e.blocks.length] ++
        nat2 (e.shadow.elim 0 Shadow.newLength) ++ [flag1 (e.shadow.elim false Shadow.copyIn)] := by
  unfold infoData Entry.isOpen
  cases e.shadow <;> rfl

/-- The three flags of a catalog line in bits 7 to 5 of its flags byte (11.4). -/
theorem lineFlags_eq (isOpen damage audited : Bool) :
    flag1 isOpen <<< 7 ||| flag1 damage <<< 6 ||| flag1 audited <<< 5 =
      BitVec.ofNat 8 (128 * isOpen.toNat + 64 * damage.toNat + 32 * audited.toNat) := by
  revert isOpen damage audited
  decide

theorem lastKey_eq (lines : List Entry) : lastKey lines = lines.getLast?.elim 0 Entry.key := by
  unfold lastKey
  cases lines.getLast? <;> rfl

/-- Settles O15: each reader answers in the state in which it is served, in the bytes of 11.4. -/
theorem catalogReaders : Obligations.CatalogReaders := by
  refine ⟨fun key s h => ?_, fun after s beyond lines h hbeyond hlines => ?_, fun s h => ?_⟩
  · have hserved := exec_served (c := .info key) h rfl
    refine ⟨fun hkey => ?_, fun h0 h1 hfind => ?_, fun e h0 h1 hfind => ?_⟩
    · rw [Answers, ServedAs, hserved, badKey_iff.2 hkey, State.onRecord_bad]
    · rw [Answers, ServedAs, hserved, badKey_false h0 h1, State.onRecord_none (by simpa using hfind)]
    · rw [Answers, ServedAs, hserved, badKey_false h0 h1, State.onRecord_some (e := e) (by simpa using hfind), infoData_eq]
  · have hline : catalogLine = fun e : Entry =>
        nat2 e.key ++ nat2 e.length ++ nat2 e.generation ++
          [BitVec.ofNat 8 (128 * e.shadow.isSome.toNat + 64 * e.damage.toNat + 32 * e.audited.toNat) |||
            nat1 e.counters.length, 0] := by
      funext e
      rw [catalogLine, lineFlags_eq]
      rfl
    subst hlines hbeyond
    rw [ServedAs, exec_served h rfl, ← hline, ← lastKey_eq]
    simp only [Store.after, State.serving_store]
  · rw [Answers, ServedAs, exec_served h rfl, State.serving_store]
    rfl

/-! ### RETIRE (R14, R15, R98) -/

theorem execRetireAnswer_eq {s : State} {key freed : Nat} (h : s.window.work = some (.retire key freed)) :
    exec .retireAnswer s =
      .next (if s.engine.tends.any fun t => t.key == key then s else s.answer .ok [nat1 freed]) := by
  show execRetireAnswer s = _
  unfold execRetireAnswer
  rw [h]

/-- Settles O16: the outcomes of `State.onRecord`, and the retirement step of a LIVE record. -/
theorem retireThenAnswer : Obligations.RetireThenAnswer := by
  refine ⟨fun key s h => ?_, fun s key freed hwork => ?_⟩
  · have hserved := exec_served (c := .retire key) h rfl
    rw [Answers, ServedAs, hserved]
    split
    · rename_i hkey
      rw [badKey_iff.2 hkey, State.onRecord_bad]
    · rename_i hkey
      rw [← badKey_iff, Bool.not_eq_true] at hkey
      split
      · rename_i hfind
        rw [Answers, ServedAs, hserved, hkey, State.onRecord_none (by simpa using hfind)]
      · rename_i e hfind
        simp only [Answers, ServedAs, hserved, hkey]
        rw [State.onRecord_some (e := e) (by simpa using hfind)]
        by_cases hlive : e.shadow = none
        · rw [if_neg (by simpa using hlive), if_neg (by simp [Entry.isOpen, hlive])]
          rfl
        · rw [if_pos hlive, if_pos (by simpa [Entry.isOpen, Option.isSome_iff_ne_none] using hlive)]
  · rw [execRetireAnswer_eq hwork]
    simp only [List.any_eq_true, beq_iff_eq]

end Sys2Proof.Machine

/-! The fill stages of CREATE and OPEN-CHANGE, and CREATE (O13). -/

namespace Sys2Proof.Machine

open Sys2Proof

/-! ### What a fill writes (R8, R21) -/

/-- A payload byte read where a payload write put one. -/
theorem payloadByte_writePayload {m : Memory} (h : Memory.Wf m) {blocks : List Block} (hn : blocks.Nodup)
    {bytes : List Byte} {i : Nat} {b : Byte} (hi : i < 64 * blocks.length) (hb : bytes[i]? = some b) :
    payloadByte (writePayload m blocks 0 bytes) blocks i = b := by
  obtain ⟨a, ha⟩ := Option.isSome_iff_exists.1 (payloadAddress_isSome.2 hi)
  unfold payloadByte
  rw [ha]
  exact read_writePayload_at h hn 0 bytes (j := i) (by simpa using ha) hb

/-- A payload write changes no byte outside its blocks. -/
theorem read_writePayload_outsideBlocks {m : Memory} (h : Memory.Wf m) {blocks : List Block} (i : Nat)
    (bytes : List Byte) {a : Nat} (ha : OutsideBlocks blocks a) :
    Memory.read (writePayload m blocks i bytes) a = Memory.read m a := by
  refine read_writePayload_outside h i bytes fun b hb => ?_
  have := ha b hb
  simp only [Config.blockSize]
  omega

theorem le_blocksFor (length : Nat) : length ≤ 64 * blocksFor length := by
  simp only [blocksFor, Config.blockSize]
  omega

theorem shadowFill_getElem? (m : Memory) (e : Entry) {newLength : Nat} (copyIn : Bool) {i : Nat}
    (hi : i < 64 * blocksFor newLength) :
    (shadowFill m e newLength copyIn)[i]? =
      some (if copyIn = true ∧ i < min e.length newLength then payloadByte m e.blocks i else 0) := by
  have hfit := le_blocksFor newLength
  unfold shadowFill
  cases copyIn with
  | false => simp [Config.blockSize, Nat.mul_comm, hi]
  | true =>
    by_cases hin : i < min e.length newLength
    · simp [readPayload, List.getElem?_append, hin]
    · have hrest : i - min e.length newLength < blocksFor newLength * 64 - min e.length newLength := by omega
      simp [readPayload, Config.blockSize, List.getElem?_append, hin, hrest]

/-- The fill stage of OPEN-CHANGE gives its blocks the bytes of R21. -/
theorem shadowFilled_writePayload {m : Memory} (h : Memory.Wf m) (e : Entry) {blocks : List Block} (hn : blocks.Nodup)
    {newLength : Nat} (hlen : blocks.length = blocksFor newLength) (copyIn : Bool) :
    ShadowFilled m (writePayload m blocks 0 (shadowFill m e newLength copyIn)) e blocks newLength copyIn :=
  ⟨fun _ hi => payloadByte_writePayload h hn hi (shadowFill_getElem? m e copyIn (hlen ▸ hi)),
    fun _ ha => read_writePayload_outsideBlocks h 0 _ ha⟩

/-- The blocks CREATE fills. -/
def filledMemory (m : Memory) (blocks : List Block) (length : Nat) (fill : Byte) : Memory :=
  writePayload m blocks 0 (List.replicate (blocksFor length * Config.blockSize) fill)

section
variable {m : Memory} (h : Memory.Wf m) {blocks : List Block} (hn : blocks.Nodup) {length : Nat}
  (hlen : blocks.length = blocksFor length) (fill : Byte)
include h hn hlen

theorem payloadByte_filledMemory {i : Nat} (hi : i < 64 * blocks.length) :
    payloadByte (filledMemory m blocks length fill) blocks i = fill := by
  refine payloadByte_writePayload h hn hi ?_
  rw [List.getElem?_replicate, if_pos]
  simp only [Config.blockSize]
  omega

theorem readPayload_filledMemory :
    readPayload (filledMemory m blocks length fill) blocks 0 length = List.replicate length fill := by
  have hfit := le_blocksFor length
  refine List.eq_replicate_iff.2 ⟨by simp [readPayload], fun b hb => ?_⟩
  obtain ⟨i, hi, rfl⟩ := List.mem_map.1 hb
  rw [List.mem_range] at hi
  exact payloadByte_filledMemory h hn hlen fill (by omega)

theorem read_filledMemory {b : Block} (hb : b ∈ blocks) {i : Nat} (hi : i < 64) :
    Memory.read (filledMemory m blocks length fill) (64 * b.val + i) = fill := by
  obtain ⟨j, hj, rfl⟩ := List.getElem_of_mem hb
  have haddress : payloadAddress blocks (64 * j + i) = some (64 * blocks[j].val + i) := by
    have hdiv : (64 * j + i) / 64 = j := by omega
    have hmod : (64 * j + i) % 64 = i := by omega
    simp [payloadAddress, Config.blockSize, hdiv, hmod, hj]
    omega
  have hread := payloadByte_filledMemory h hn hlen fill (i := 64 * j + i) (by omega)
  rwa [payloadByte, haddress] at hread

end

/-! ### CREATE (R7, R8) -/

theorem Store.find_isSome {st : Store} {key : Nat} : (st.find key).isSome = true ↔ ∃ e ∈ st.catalog, e.key = key := by
  simp [Store.find, List.find?_isSome]

/-- What CREATE answers, check by check (R7). -/
theorem firstFailing_createChecks (st : Store) (key length : Half) (count : Byte) (specs : List CounterSpec) :
    firstFailing (createChecks st key length count specs) =
      if key = 0 ∨ key = 0xFFFF ∨ length = 0 ∨ 1024 < length.toNat ∨ 4 < count.toNat ∨
          ∃ c ∈ specs.take count.toNat, c.ceiling.toInt < c.floor.toInt then some .range
      else if ∃ e ∈ st.catalog, e.key = key.toNat then some .existsAlready
      else if 96 ≤ st.catalog.length then some .catalogFull
      else if st.freeBlocks.length < (length.toNat + 63) / 64 then some .noSpace
      else none := by
  simp only [createChecks, firstFailing_cons, firstFailing_nil, Bool.or_eq_true, badKey_iff, beq_iff_eq,
    decide_eq_true_eq, List.any_eq_true, Store.find_isSome, Store.lacksSpace_iff, ite_or]
  rfl

/-- Where every check of CREATE passes, it holds itself in hand with its blocks filled (R8). -/
theorem State.fillCreate_eq {u : State} (h : u.MemoryWf) {key length : Nat} (fill : Byte) (counters : List Counter)
    (hspace : ¬ u.store.freeBlocks.length < blocksFor length) :
    u.fillCreate key length fill counters =
      { u with store := { u.store with
        memory := filledMemory u.store.memory (u.store.lowestFree (blocksFor length)) length fill } }.holdWork
        (.create key length (u.store.lowestFree (blocksFor length))
          (recordCheck key length (List.replicate length fill)) counters) := by
  rw [← Store.lacksSpace_iff, Bool.not_eq_true] at hspace
  rw [← readPayload_filledMemory h (Store.lowestFree_nodup _ _) (Store.lowestFree_length hspace) fill]
  rfl

theorem execEntryStep_eq {s : State} {key length : Nat} {blocks : List Block} {check : Half} {counters : List Counter}
    (h : s.window.work = some (.create key length blocks check counters)) :
    exec .entryStep s =
      .next ({ s with
        store :=
          { s.store with
            catalog := insertEntry (newEntry key length blocks check counters) s.store.catalog } }.answer
        .ok (nat2 key ++ [nat1 blocks.length] ++ nat2 0 ++ halfBytes check)) := by
  show execEntryStep s = _
  unfold execEntryStep
  rw [h]

/-- Settles O13: CREATE by `firstFailing_createChecks` and `State.fillCreate_eq`, its entry step by the laws of
`insertEntry`. -/
theorem createThenEntryStep : Obligations.CreateThenEntryStep := by
  refine ⟨?_, fun s key length blocks check counters hwork => ?_, fun e catalog hsorted habsent =>
    ⟨insertEntry_perm e catalog, insertEntry_sorted hsorted habsent⟩⟩
  · rintro key length fill count c0 c1 c2 c3 s u specs blocks h hm rfl rfl rfl
    rw [exec_served h rfl]
    have hchecks := firstFailing_createChecks (s.serving (.create key length fill count c0 c1 c2 c3)).store key length
      count [c0, c1, c2, c3]
    simp only [State.serving_store] at hchecks ⊢
    rw [hchecks]
    split_ifs with _ _ _ hspace
    · rfl
    · rfl
    · rfl
    · rfl
    · have hlen := Store.lowestFree_length (st := s.store) (n := blocksFor length.toNat)
        (by rw [← Bool.not_eq_true, Store.lacksSpace_iff]; exact hspace)
      refine ⟨filledMemory s.store.memory (s.store.lowestFree (blocksFor length.toNat)) length.toNat fill, ?_,
        fun b hb i hi => read_filledMemory hm (Store.lowestFree_nodup _ _) hlen fill hb hi,
        fun a ha => read_writePayload_outsideBlocks hm 0 _ ha⟩
      dsimp only
      rw [State.fillCreate_eq (by rw [State.MemoryWf, State.serving_store]; exact hm) fill _
        (by rw [State.serving_store]; exact hspace)]
      simp only [State.serving_store]
      rfl
  · rw [execEntryStep_eq hwork]
    rfl

end Sys2Proof.Machine

/-! The record check and the completion of a verification (O14). -/

namespace Sys2Proof.Machine

open Sys2Proof

/-! ### The record check (R6) -/

theorem halfBytes_ofNat (n : Nat) : halfBytes (BitVec.ofNat 16 n) = [BitVec.ofNat 8 (n / 256), BitVec.ofNat 8 n] := by
  unfold halfBytes
  congr 1
  · apply BitVec.eq_of_toNat_eq
    simp [BitVec.extractLsb'_toNat, Nat.shiftRight_eq_div_pow]
    omega
  · congr 1
    apply BitVec.eq_of_toNat_eq
    simp [BitVec.extractLsb'_toNat]

/-- The check is taken byte by byte: one more payload byte is one more step (R6). -/
theorem recordCheck_append (key length : Nat) (payload : List Byte) (b : Byte) :
    recordCheck key length (payload ++ [b]) = crcByte (recordCheck key length payload) b := by
  simp [recordCheck, List.foldl_append]

theorem recordCheck_nil (key length : Nat) :
    recordCheck key length [] =
      [BitVec.ofNat 8 (key / 256), BitVec.ofNat 8 key, BitVec.ofNat 8 (length / 256), BitVec.ofNat 8 length].foldl
        crcByte 0xFFFF := by
  simp [recordCheck, halfBytes_ofNat]

/-- One doubling of the remainder, as R6 words it. -/
theorem crcShift_eq : crcShift = fun x : Half => if x.getLsbD 15 then x * 2 ^^^ 0x1021 else x * 2 := by
  funext x
  have hdouble : x <<< 1 = x * 2 := by
    rw [BitVec.shiftLeft_eq_mul_twoPow]
    rfl
  rw [crcShift, BitVec.msb_eq_getLsbD_last, hdouble]

/-- The byte combined into the high half of the remainder. -/
theorem setWidth_shiftLeft_eight (b : Byte) : b.setWidth 16 <<< 8 = BitVec.ofNat 16 (256 * b.toNat) := by
  apply BitVec.eq_of_toNat_eq
  have := b.isLt
  simp [Nat.shiftLeft_eq]
  omega

theorem crcByte_eq (r : Half) (b : Byte) :
    crcByte r b = crcShift^[8] (r ^^^ BitVec.ofNat 16 (256 * b.toNat)) := by
  rw [crcByte, setWidth_shiftLeft_eight]
  rfl

/-! ### The completion of a verification (R34, R36) -/

/-- In a catalog with distinct keys verifying a key marks its one entry. -/
theorem Store.verify_eq_withEntry {st : Store} (h : st.Wf) {key : Nat} {e : Entry} (he : st.find key = some e) :
    st.verify key = st.withEntry key fun x =>
      { x with
        damage :=
          e.damage || (recordCheck e.key e.length (readPayload st.memory e.blocks 0 e.length) != e.check)
        audited := true } := by
  simp only [Store.verify, Store.update, Store.withEntry, Store.mk.injEq, true_and, and_true]
  refine List.map_congr_left fun x hx => ?_
  by_cases hkey : x.key = key
  · have hsame : x = e := Option.some.inj (((Store.find_iff h.1).2 ⟨hx, hkey⟩).symm.trans he)
    subst hsame
    rw [if_pos hkey, if_pos hkey]
    rfl
  · rw [if_neg hkey, if_neg hkey]

theorem execVerification_read {s : State} {key offset count : Nat} {e : Entry}
    (hwork : s.window.work = some (.readVerify key offset count)) (he : s.store.find key = some e) :
    exec .verification s =
      .next ({ s with store := s.store.verify key }.deliverPiece (s.store.verifiedEntry e) e.blocks offset count 0) := by
  show execVerification s = _
  unfold execVerification
  rw [hwork]
  dsimp only
  rw [he]

theorem execVerification_open {s : State} {key newLength : Nat} {copyIn : Bool} {e : Entry}
    (hwork : s.window.work = some (.openVerify key newLength copyIn)) (he : s.store.find key = some e) :
    exec .verification s = .next ({ s with store := s.store.verify key }.fillOpen e newLength copyIn) := by
  show execVerification s = _
  unfold execVerification
  rw [hwork]
  dsimp only
  rw [he]

theorem Store.verify_lowestFree (st : Store) (key n : Nat) : (st.verify key).lowestFree n = st.lowestFree n := by
  unfold Store.lowestFree
  rw [Store.freeBlocks_of_keeps (st := st) rfl (Entry.underKey_keeps st.verifiedEntry_keeps)]

/-- Settles O14: the check is a fold over bytes, and a verification marks the one entry its key names. -/
theorem verificationByTheRecordCheck : Obligations.VerificationByTheRecordCheck := by
  refine ⟨⟨by decide +kernel, recordCheck_nil, recordCheck_append, fun r b => ?_⟩, fun s key e store hs hm he hstore => ?_⟩
  · rw [crcByte_eq, crcShift_eq]
  · rw [← Store.verify_eq_withEntry hs.1 he] at hstore
    subst hstore
    have hkey := (Store.find_some he).2
    refine ⟨fun offset count hwork => ?_, fun newLength copyIn hwork => ?_⟩
    · rw [execVerification_read hwork he, ← hkey]
      rfl
    · obtain ⟨-, -, hspace⟩ := hs.2 _ hwork
      have hlen : (s.store.lowestFree (blocksFor newLength)).length = blocksFor newLength := by
        simpa [Store.lowestFree] using hspace
      refine ⟨_, ?_, shadowFilled_writePayload hm e (Store.lowestFree_nodup _ _) hlen copyIn⟩
      rw [execVerification_open hwork he, ← hkey, State.fillOpen]
      dsimp only
      rw [Store.verify_lowestFree]
      rfl

end Sys2Proof.Machine

/-! Committed contents (O22): what every command but a swap stage, a cell reset and a fall of the keep supply keeps of a
record that its RETIRE does not take out. -/

namespace Sys2Proof.Machine

open Sys2Proof

/-! ### Records kept -/

/-- The entry `e'` stands for the same committed record as `e` (R4): shadow, counters and the two marks may differ. -/
structure Entry.SameCommitted (e e' : Entry) : Prop where
  key : e'.key = e.key
  length : e'.length = e.length
  blocks : e'.blocks = e.blocks
  generation : e'.generation = e.generation
  check : e'.check = e.check

theorem Entry.SameCommitted.refl (e : Entry) : e.SameCommitted e := ⟨rfl, rfl, rfl, rfl, rfl⟩

theorem Entry.underKey_sameCommitted {key : Nat} {f : Entry → Entry} (hf : ∀ e : Entry, e.SameCommitted (f e))
    (e : Entry) : e.SameCommitted (e.underKey key f) := by
  unfold Entry.underKey
  split
  · exact hf e
  · exact .refl e

theorem Entry.abandoned_sameCommitted (e : Entry) : e.SameCommitted e.abandoned := ⟨rfl, rfl, rfl, rfl, rfl⟩

theorem Entry.setCounter_sameCommitted (i : Nat) (c : Counter) (e : Entry) : e.SameCommitted (e.setCounter i c) :=
  ⟨rfl, rfl, rfl, rfl, rfl⟩

theorem Store.verifiedEntry_sameCommitted (st : Store) (e : Entry) : e.SameCommitted (st.verifiedEntry e) :=
  ⟨rfl, rfl, rfl, rfl, rfl⟩

/-- The store `st'` holds the record that `e` stands for in `st`, with the same committed contents. -/
def Store.KeepsRecord (st st' : Store) (e : Entry) : Prop :=
  ∃ e' ∈ st'.catalog, e.SameCommitted e' ∧
    readPayload st'.memory e.blocks 0 e.length = readPayload st.memory e.blocks 0 e.length

section
variable {st st' : Store} {e : Entry}

/-- Keep memory as it was, and entries changed into ones that stand for the same records. -/
theorem Store.keepsRecord_of_map {g : Entry → Entry} (he : e ∈ st.catalog) (hcat : st'.catalog = st.catalog.map g)
    (hmem : st'.memory = st.memory) (hg : e.SameCommitted (g e)) : st.KeepsRecord st' e :=
  ⟨g e, hcat ▸ List.mem_map_of_mem he, hg, by rw [hmem]⟩

theorem Store.keepsRecord_of_same (he : e ∈ st.catalog) (hcat : st'.catalog = st.catalog)
    (hmem : st'.memory = st.memory) : st.KeepsRecord st' e :=
  Store.keepsRecord_of_map (g := id) he (hcat.trans (List.map_id _).symm) hmem (.refl e)

theorem Store.keepsRecord_of_update {key : Nat} {f : Entry → Entry} (he : e ∈ st.catalog)
    (hf : ∀ e : Entry, e.SameCommitted (f e)) : st.KeepsRecord (st.update key f) e :=
  Store.keepsRecord_of_map he (Store.update_catalog st key f) rfl (Entry.underKey_sameCommitted hf e)

theorem Store.keepsRecord_of_abandonAll (he : e ∈ st.catalog) : st.KeepsRecord st.abandonAll e :=
  Store.keepsRecord_of_map he rfl rfl e.abandoned_sameCommitted

theorem Store.keepsRecord_of_restart (he : e ∈ st.catalog) : st.KeepsRecord st.abandonAll.startAudit e :=
  Store.keepsRecord_of_map (g := fun e => { e.abandoned with audited := false }) he
    (by simp [Store.startAudit, Store.abandonAll]) rfl ⟨rfl, rfl, rfl, rfl, rfl⟩

/-- A payload written into none of the record's committed blocks leaves its contents. -/
theorem Store.KeepsRecord.written {st₁ : Store} {blocks : List Block} {i : Nat} {bytes : List Byte}
    (h : st.KeepsRecord st₁ e) (hm : Memory.Wf st₁.memory) (hcat : st'.catalog = st₁.catalog)
    (hmem : st'.memory = writePayload st₁.memory blocks i bytes) (hapart : ∀ b ∈ e.blocks, b ∉ blocks) :
    st.KeepsRecord st' e := by
  obtain ⟨e', he', hsame, hbytes⟩ := h
  refine ⟨e', hcat ▸ he', hsame, ?_⟩
  rw [hmem, readPayload_writePayload_disjoint hm i bytes hapart, hbytes]

/-- No committed block is among the free ones selected (R2). -/
theorem Store.committed_not_selected (he : e ∈ st.catalog) (n : Nat) : ∀ b ∈ e.blocks, b ∉ st.lowestFree n :=
  fun _ hb hsel => Store.lowestFree_free hsel (Store.mem_usedBlocks.2 ⟨e, he, .inl hb⟩)

/-- No committed block is a shadow block of any record (R1). -/
theorem Store.committed_not_shadow (hnodup : st.usedBlocks.Nodup) (he : e ∈ st.catalog) {x : Entry}
    (hx : x ∈ st.catalog) : ∀ b ∈ e.blocks, b ∉ x.shadowBlocks := by
  intro b hb hshadow
  obtain ⟨hown, hothers⟩ := List.nodup_flatMap.1 hnodup
  by_cases hsame : e = x
  · subst hsame
    exact List.disjoint_of_nodup_append (hown e he) hb hshadow
  · have : Std.Symm (Function.onFun List.Disjoint fun e : Entry => e.blocks ++ e.shadowBlocks) :=
      ⟨fun _ _ h => h.symm⟩
    exact hothers.forall he hx hsame (List.mem_append_left _ hb) (List.mem_append_right _ hshadow)

end

/-! ### The shapes a command's effect takes -/

section
variable {s u : State} {e : Entry} (he : e ∈ s.store.catalog)
include he

/-- A submit: nothing of the store changes, or the owning block acts on the store as it stands. -/
theorem submit_keepsRecord {bytes : List Byte} {act : Bool → State → State}
    (hact : ∀ woke u, u.store = s.store → s.store.KeepsRecord (act woke u).store e) :
    s.store.KeepsRecord (submit bytes act s).store e :=
  submit_cases (P := fun t => s.store.KeepsRecord t.store e) (Store.keepsRecord_of_same he rfl rfl)
    (Store.keepsRecord_of_same he rfl rfl) fun _ woke => hact woke _ (by simp)

theorem keepsRecord_of_store (hu : u.store = s.store) : s.store.KeepsRecord u.store e := by
  rw [hu]
  exact Store.keepsRecord_of_same he rfl rfl

theorem State.onRecord_keepsRecord {bad : Bool} {key : Half} {act : Entry → State} (hu : u.store = s.store)
    (hact : ∀ x, s.store.find key.toNat = some x → s.store.KeepsRecord (act x).store e) :
    s.store.KeepsRecord (u.onRecord bad key act).store e :=
  State.onRecord_cases (P := fun t => s.store.KeepsRecord t.store e) (fun _ => keepsRecord_of_store he hu)
    (fun _ _ => keepsRecord_of_store he hu) fun _ x hx => hact x (hu ▸ hx)

theorem State.onCounter_keepsRecord (hu : u.store = s.store) (bad : Bool) (key : Half) (index : Byte)
    (act : Counter → Result × Counter × Bool) : s.store.KeepsRecord (u.onCounter bad key index act).store e :=
  State.onCounter_cases (P := fun t => s.store.KeepsRecord t.store e) (fun _ => keepsRecord_of_store he hu)
    (fun _ _ => keepsRecord_of_store he hu) (fun _ _ _ _ => keepsRecord_of_store he hu) fun _ _ _ _ _ =>
      hu ▸ Store.keepsRecord_of_update (hu ▸ he) (Entry.setCounter_sameCommitted _ _)

/-- A reading ends open changes and clears audited marks at most. -/
theorem State.takeReading_keepsRecord (hu : u.store = s.store) (r : Reading) :
    s.store.KeepsRecord (u.takeReading r).store e := by
  obtain ⟨_, _, h⟩ | ⟨_, _, h⟩ | ⟨_, _, h⟩ | ⟨_, _, h⟩ := u.takeReading_cases r <;> rw [h]
  · exact keepsRecord_of_store he hu
  · exact hu ▸ Store.keepsRecord_of_restart (hu ▸ he)
  · exact keepsRecord_of_store he hu
  · exact hu ▸ Store.keepsRecord_of_abandonAll (hu ▸ he)

/-- A fill stage of OPEN-CHANGE writes free blocks alone. -/
theorem State.fillOpen_keepsRecord (hm : s.MemoryWf) (hu : s.store.KeepsRecord u.store e)
    (hmem : u.store.memory = s.store.memory) (hfree : ∀ n, u.store.lowestFree n = s.store.lowestFree n) (x : Entry)
    (newLength : Nat) (copyIn : Bool) : s.store.KeepsRecord (u.fillOpen x newLength copyIn).store e := by
  refine hu.written (hmem ▸ hm) rfl rfl ?_
  rw [hfree]
  exact Store.committed_not_selected he _

end

/-! ### Commands that write keep memory -/

section
variable {s t : State} {e : Entry} (he : e ∈ s.store.catalog) (hm : s.MemoryWf)
include he hm

theorem execCreate_keepsRecord {key length : Half} {fill count : Byte} {c0 c1 c2 c3 : CounterSpec}
    (h : exec (.create key length fill count c0 c1 c2 c3) s = .next t) : s.store.KeepsRecord t.store e := by
  cases h
  refine submit_keepsRecord he fun _ u hu => ?_
  split
  · exact keepsRecord_of_store he hu
  · refine (keepsRecord_of_store he hu).written (hu ▸ hm) rfl rfl ?_
    rw [hu]
    exact Store.committed_not_selected he _

theorem execOpenChange_keepsRecord {key newLength : Half} {copyIn : Byte}
    (h : exec (.openChange key newLength copyIn) s = .next t) : s.store.KeepsRecord t.store e := by
  cases h
  refine submit_keepsRecord he fun _ u hu => ?_
  split
  · exact keepsRecord_of_store he hu
  · exact keepsRecord_of_store he hu
  · split
    · exact keepsRecord_of_store he hu
    · exact State.fillOpen_keepsRecord he hm (keepsRecord_of_store he hu) (by rw [hu]) (by simp [hu]) _ _ _

theorem execVerification_keepsRecord (h : exec .verification s = .next t) : s.store.KeepsRecord t.store e := by
  cases h
  have hverified (key : Nat) : s.store.KeepsRecord (s.store.verify key) e :=
    Store.keepsRecord_of_update he s.store.verifiedEntry_sameCommitted
  split
  · rename_i key _ _ _
    split
    · exact State.fillOpen_keepsRecord (u := { s with store := s.store.verify key }) he hm (hverified key) rfl
        (s.store.verify_lowestFree key) _ _ _
    · exact Store.keepsRecord_of_same he rfl rfl
  · split
    · exact hverified _
    · exact Store.keepsRecord_of_same he rfl rfl
  · exact Store.keepsRecord_of_same he rfl rfl

theorem execWritePiece_keepsRecord {key offset : Half} {count : Byte} (hnodup : s.store.usedBlocks.Nodup)
    (h : exec (.writePiece key offset count) s = .next t) : s.store.KeepsRecord t.store e := by
  cases h
  refine submit_keepsRecord he fun _ u hu => State.onRecord_keepsRecord he hu fun x hx => ?_
  split
  · exact keepsRecord_of_store he hu
  · rename_i sh hshadow
    split
    · exact keepsRecord_of_store he hu
    · refine (keepsRecord_of_store he hu).written (hu ▸ hm) rfl rfl ?_
      simpa [Entry.shadowBlocks, hshadow] using Store.committed_not_shadow hnodup he (Store.find_some hx).1

end

/-! ### Commands that change the catalog -/

section
variable {s t : State} {e : Entry} (he : e ∈ s.store.catalog)
include he

theorem execEntryStep_keepsRecord (h : exec .entryStep s = .next t) : s.store.KeepsRecord t.store e := by
  cases h
  split
  · exact ⟨e, mem_insertEntry.2 (.inr he), .refl e, rfl⟩
  · exact Store.keepsRecord_of_same he rfl rfl

theorem execRetire_keepsRecord {key : Half} (hkey : e.key ≠ key.toNat) (h : exec (.retire key) s = .next t) :
    s.store.KeepsRecord t.store e := by
  cases h
  refine submit_keepsRecord he fun _ u hu => State.onRecord_keepsRecord he hu fun x _ => ?_
  split
  · exact keepsRecord_of_store he hu
  · refine ⟨e, List.mem_filter.2 ⟨hu ▸ he, by simpa using hkey⟩, .refl e, ?_⟩
    rw [← hu]
    rfl

theorem execOpenChangeEntry_keepsRecord (h : exec .openChangeEntry s = .next t) : s.store.KeepsRecord t.store e := by
  cases h
  split
  · split
    · exact Store.keepsRecord_of_update he fun _ => ⟨rfl, rfl, rfl, rfl, rfl⟩
    · exact Store.keepsRecord_of_same he rfl rfl
  · exact Store.keepsRecord_of_same he rfl rfl

theorem execAbandonChange_keepsRecord {key : Half} (h : exec (.abandonChange key) s = .next t) :
    s.store.KeepsRecord t.store e := by
  cases h
  refine submit_keepsRecord he fun _ u hu => State.onRecord_keepsRecord he hu fun x _ => ?_
  split
  · exact keepsRecord_of_store he hu
  · exact hu ▸ Store.keepsRecord_of_update (hu ▸ he) Entry.abandoned_sameCommitted

theorem execAuditStep_keepsRecord (h : exec .auditStep s = .next t) : s.store.KeepsRecord t.store e := by
  cases h
  split
  · split
    · split
      · exact Store.keepsRecord_of_same he rfl rfl
      · exact Store.keepsRecord_of_map he (Store.update_catalog _ _ _) rfl
          (Entry.underKey_sameCommitted s.store.verifiedEntry_sameCommitted e)
    · exact Store.keepsRecord_of_same he rfl rfl
  · exact Store.keepsRecord_of_same he rfl rfl

theorem execTendAction_keepsRecord (h : exec .tendAction s = .next t) : s.store.KeepsRecord t.store e := by
  cases h
  split
  · rename_i a rest _ _
    obtain ⟨_, htend⟩ | ⟨x, _, htend⟩ := s.store.tend_cases a <;> rw [htend]
    · exact Store.keepsRecord_of_same he rfl rfl
    · exact Store.keepsRecord_of_update he (Entry.setCounter_sameCommitted _ _)
  · exact Store.keepsRecord_of_same he rfl rfl
  · exact Store.keepsRecord_of_same he rfl rfl

theorem execMinuteEvent_keepsRecord {r : Reading} (h : exec (.minuteEvent r) s = .next t) :
    s.store.KeepsRecord t.store e := by
  cases h
  split
  · exact Store.keepsRecord_of_same he rfl rfl
  · dsimp only
    split
    · exact Store.keepsRecord_of_same he rfl rfl
    · split
      · exact Store.keepsRecord_of_same he rfl rfl
      · exact State.takeReading_keepsRecord he (by rfl) _

end

/-- Everything but a swap stage, a cell reset, a fall of the keep supply and its own RETIRE keeps a record. -/
theorem exec_keepsRecord {c : Instr} {s t : State} {e : Entry} (hs : s.StoreWf) (hm : s.MemoryWf)
    (he : e ∈ s.store.catalog) (h : exec c s = .next t) (hswap : c ≠ .swapStage) (hreset : c ≠ .cellReset)
    (hfall : ∀ faults, c ≠ .retentionDoubtful faults) (hretire : ∀ key, c = .retire key → e.key ≠ key.toNat) :
    s.store.KeepsRecord t.store e := by
  cases c
  case swapStage => exact absurd rfl hswap
  case cellReset => exact absurd rfl hreset
  case retentionDoubtful faults => exact absurd rfl (hfall faults)
  case retire key => exact execRetire_keepsRecord he (hretire key rfl) h
  case create => exact execCreate_keepsRecord he hm h
  case entryStep => exact execEntryStep_keepsRecord he h
  case openChange => exact execOpenChange_keepsRecord he hm h
  case openChangeEntry => exact execOpenChangeEntry_keepsRecord he h
  case writePiece =>
    obtain ⟨-, -, -, -, hnodup⟩ := hs.1
    exact execWritePiece_keepsRecord he hm hnodup h
  case verification => exact execVerification_keepsRecord he hm h
  case abandonChange => exact execAbandonChange_keepsRecord he h
  case auditStep => exact execAuditStep_keepsRecord he h
  case readCounter | adjustCounter | setCounter | swapCounter | setBounds =>
    cases h
    exact submit_keepsRecord he fun _ _ hu => State.onCounter_keepsRecord he hu _ _ _ _
  case tendAction => exact execTendAction_keepsRecord he h
  case ackNotice =>
    cases h
    exact submit_keepsRecord he fun _ _ hu =>
      Store.keepsRecord_of_same he (by rw [← hu]; rfl) (by rw [← hu]; rfl)
  case minuteEvent => exact execMinuteEvent_keepsRecord he h
  case supplyReading | wakeEvent =>
    cases h
    split
    · exact State.takeReading_keepsRecord he (by rfl) _
    · exact Store.keepsRecord_of_same he rfl rfl
  case consoleReset =>
    cases h
    dsimp only
    split
    · exact Store.keepsRecord_of_restart he
    · exact Store.keepsRecord_of_same he rfl rfl
  all_goals exact keepsRecord_of_store he (exec_keeps_store rfl h)

/-- Settles O22, by what each command does to the catalog and by the blocks it writes: no committed block is free or a
shadow block. -/
theorem committedContentsChangeOnlyAtSwap : Obligations.CommittedContentsChangeOnlyAtSwap := by
  intro c s t hs hm h hswap hreset hfall e he hretire
  obtain ⟨e', he', hsame, hbytes⟩ := exec_keepsRecord hs hm he h hswap hreset hfall hretire
  refine ⟨e', he', hsame.key, hsame.length, hsame.blocks, hsame.generation, hsame.check, ?_⟩
  rw [hsame.blocks, hsame.length, hbytes]

end Sys2Proof.Machine

/-! OPEN-CHANGE and its entry step (O17). -/

namespace Sys2Proof.Machine

open Sys2Proof

/-- What OPEN-CHANGE answers under a key that names no record (R20). -/
theorem firstFailing_openChecks_none {st : Store} {key : Half} (newLength : Half) (hfind : st.find key.toNat = none) :
    firstFailing (openChecks st key newLength) =
      if key = 0 ∨ key = 0xFFFF ∨ newLength = 0 ∨ 1024 < newLength.toNat then some .range else some .noRecord := by
  simp only [openChecks, hfind, firstFailing_cons, Bool.or_eq_true, badKey_iff, beq_iff_eq, decide_eq_true_eq,
    Option.isNone_none, if_true, ite_or]
  rfl

/-- What OPEN-CHANGE answers under the key of a record, check by check (R20). -/
theorem firstFailing_openChecks_some {st : Store} {key : Half} (newLength : Half) {e : Entry}
    (hfind : st.find key.toNat = some e) :
    firstFailing (openChecks st key newLength) =
      if key = 0 ∨ key = 0xFFFF ∨ newLength = 0 ∨ 1024 < newLength.toNat then some .range
      else if e.shadow ≠ none then some .isOpen
      else if 4 ≤ st.catalog.countP fun e => e.shadow.isSome then some .openLimit
      else if st.freeBlocks.length < (newLength.toNat + 63) / 64 then some .noSpace
      else none := by
  simp only [openChecks, hfind, firstFailing_cons, firstFailing_nil, Bool.or_eq_true, badKey_iff, beq_iff_eq,
    decide_eq_true_eq, Option.isNone_some, Option.any_some, Entry.isOpen, Option.isSome_iff_ne_none,
    Store.lacksSpace_iff, ite_or]
  rfl

theorem Store.mustVerify_iff {st : Store} {e : Entry} :
    st.mustVerify e = true ↔ st.auditFlag = true ∧ e.audited = false := by
  simp [Store.mustVerify]

theorem execOpenChangeEntry_eq {s : State} {key newLength : Nat} {copyIn : Bool} {blocks : List Block} {e : Entry}
    (hwork : s.window.work = some (.openFill key newLength copyIn blocks)) (he : s.store.find key = some e) :
    exec .openChangeEntry s =
      .next ({ s with
        store :=
          s.store.update key fun x =>
            { x with shadow := some { newLength := newLength, blocks := blocks, copyIn := copyIn } } }.answer .ok
        (nat2 key ++ nat2 newLength ++ [nat1 blocks.length, flag1 copyIn] ++ nat2 e.generation ++ [flag1 e.damage])) := by
  show execOpenChangeEntry s = _
  unfold execOpenChangeEntry
  rw [hwork]
  dsimp only
  rw [he]

section
variable {s : State} {key newLength : Half} {copyIn : Byte} (h : s.Accepts)
include h

/-- An OPEN-CHANGE that fails a check answers it. -/
theorem exec_openChange_refused {r : Result} (hchecks : firstFailing (openChecks s.store key newLength) = some r) :
    exec (.openChange key newLength copyIn) s =
      .next ((s.serving (.openChange key newLength copyIn)).answer r []) := by
  rw [exec_served h rfl, State.serving_store, hchecks]

/-- An OPEN-CHANGE that fails no check goes to its verification or to its fill stage. -/
theorem exec_openChange_passed {e : Entry} (hchecks : firstFailing (openChecks s.store key newLength) = none)
    (hfind : s.store.find key.toNat = some e) :
    exec (.openChange key newLength copyIn) s =
      .next (if s.store.mustVerify e then
          (s.serving (.openChange key newLength copyIn)).holdWork
            (.openVerify key.toNat newLength.toNat (copyIn != 0))
        else (s.serving (.openChange key newLength copyIn)).fillOpen e newLength.toNat (copyIn != 0)) := by
  rw [exec_served h rfl, State.serving_store, hchecks, hfind]

end

/-- Settles O17: the checks one by one, and the fill stage by what it writes into the free blocks it selects. -/
theorem openChangeStages : Obligations.OpenChangeStages := by
  refine ⟨?_, fun s key newLength copyIn blocks e hwork hfind => execOpenChangeEntry_eq hwork hfind⟩
  rintro key newLength copyIn s u blocks h hm rfl rfl
  cases hfind : s.store.find key.toNat with
  | none =>
    have hchecks := firstFailing_openChecks_none newLength hfind
    dsimp only
    split_ifs at hchecks ⊢
    · exact exec_openChange_refused h hchecks
    · exact exec_openChange_refused h hchecks
  | some e =>
    have hchecks := firstFailing_openChecks_some newLength hfind
    dsimp only
    split_ifs at hchecks ⊢ with hrange hopen hlimit hspace hverify
    · exact exec_openChange_refused h hchecks
    · exact exec_openChange_refused h hchecks
    · exact exec_openChange_refused h hchecks
    · exact exec_openChange_refused h hchecks
    · rw [exec_openChange_passed h hchecks hfind, if_pos (Store.mustVerify_iff.2 hverify)]
    · rw [exec_openChange_passed h hchecks hfind, if_neg (mt Store.mustVerify_iff.1 hverify)]
      have hlen : (s.store.lowestFree (blocksFor newLength.toNat)).length = blocksFor newLength.toNat :=
        Store.lowestFree_length (by rw [← Bool.not_eq_true, Store.lacksSpace_iff]; exact hspace)
      refine ⟨_, ?_, shadowFilled_writePayload hm e (Store.lowestFree_nodup _ _) hlen (copyIn != 0)⟩
      rw [← (Store.find_some hfind).2, State.fillOpen]
      simp only [State.serving_store]
      rfl

end Sys2Proof.Machine

/-! WRITE-PIECE and READ-PIECE (O18, O19). -/

namespace Sys2Proof.Machine

open Sys2Proof

/-! ### A request on a record that is taken -/

section
variable {c : Instr} {s : State} {bad : Bool} {key : Half} {act : State → Entry → State} (h : s.Accepts)
  (hexec : exec c s = .next (submit (requestBytes c) (fun _ u => u.onRecord bad key (act u)) s))
include h hexec

theorem answers_of_onRecord_bad (hbad : bad = true) : Answers c s .range [] := by
  rw [Answers, ServedAs, exec_served h hexec, hbad, State.onRecord_bad]

theorem answers_of_onRecord_none (hbad : bad = false) (hfind : s.store.find key.toNat = none) :
    Answers c s .noRecord [] := by
  rw [Answers, ServedAs, exec_served h hexec, hbad, State.onRecord_none (by rwa [State.serving_store])]

theorem servedAs_of_onRecord_some (hbad : bad = false) {e : Entry} (hfind : s.store.find key.toNat = some e) :
    ServedAs c s fun u => act u e := by
  rw [ServedAs, exec_served h hexec, hbad, State.onRecord_some (by rwa [State.serving_store])]

end

/-! ### WRITE-PIECE (R23) -/

/-- The bytes WRITE-PIECE takes from the transfer buffer. -/
theorem buffer_take_getElem? (t : Table Byte 64) {count : Nat} (j : Fin 64) (hj : j.val < count) :
    (t.items.take count)[j.val]? = some (t.get j) := by
  rw [List.getElem?_take_of_lt hj]
  exact List.getElem?_eq_getElem _

/-- The shadow of a record of a store in good order: distinct blocks, one for every 64 bytes of its length. -/
theorem Store.Wf.shadow {st : Store} (h : st.Wf) {e : Entry} (he : e ∈ st.catalog) {sh : Shadow}
    (hsh : e.shadow = some sh) : sh.blocks.Nodup ∧ sh.newLength ≤ 64 * sh.blocks.length := by
  obtain ⟨-, -, -, hentries, hnodup⟩ := h
  obtain ⟨-, -, -, -, -, hshadow⟩ := hentries e he
  obtain ⟨-, hblocks⟩ := hshadow sh hsh
  have hown := (List.nodup_flatMap.1 hnodup).1 e he
  refine ⟨?_, hblocks ▸ le_blocksFor sh.newLength⟩
  simpa [Entry.shadowBlocks, hsh] using hown.of_append_right

section
variable {m : Memory} (hm : Memory.Wf m) {blocks : List Block} (t : Table Byte 64) {offset count : Nat}
include hm

/-- A piece written puts byte j of the transfer buffer at the address of contents byte offset + j. -/
theorem read_writePiece_at (hn : blocks.Nodup) (hfit : offset + count ≤ 64 * blocks.length) (j : Fin 64)
    (hj : j.val < count) :
    ∃ a, payloadAddress blocks (offset + j.val) = some a ∧
      Memory.read (writePayload m blocks offset (t.items.take count)) a = t.get j := by
  have hreach : offset + j.val < Config.blockSize * blocks.length := by
    simp only [Config.blockSize]
    omega
  obtain ⟨a, ha⟩ := Option.isSome_iff_exists.1 (payloadAddress_isSome.2 hreach)
  exact ⟨a, ha, read_writePayload_at hm hn offset _ ha (buffer_take_getElem? t j hj)⟩

/-- A piece written changes no byte but those at the addresses of its contents bytes. -/
theorem read_writePiece_other {a : Nat} (ha : ∀ j < count, payloadAddress blocks (offset + j) ≠ some a) :
    Memory.read (writePayload m blocks offset (t.items.take count)) a = Memory.read m a :=
  read_writePayload_other hm offset _ fun j hj => ha j (by simp at hj; omega)

end

/-- The RANGE condition of WRITE-PIECE that is tested before the record is looked up (R23). -/
theorem writePieceRange_iff (key : Half) (count : Byte) :
    (badKey key || count == 0 || decide (Config.pieceMax < count.toNat)) = true ↔
      key = 0 ∨ key = 0xFFFF ∨ count = 0 ∨ 64 < count.toNat := by
  simp only [Bool.or_eq_true, badKey_iff, beq_iff_eq, decide_eq_true_eq, or_assoc]
  rfl

/-- Settles O18: the outcomes of `State.onRecord`, and the payload write into distinct shadow blocks that reach the new
length. -/
theorem writePieceWrites : Obligations.WritePieceWrites := by
  rintro key offset count s u h hm hs rfl
  split_ifs with hrange
  · exact answers_of_onRecord_bad h rfl ((writePieceRange_iff key count).2 hrange)
  · rw [← writePieceRange_iff, Bool.not_eq_true] at hrange
    cases hfind : s.store.find key.toNat with
    | none => exact answers_of_onRecord_none h rfl hrange hfind
    | some e =>
      have hserved := servedAs_of_onRecord_some (c := .writePiece key offset count) h rfl hrange hfind
      dsimp only
      rw [ServedAs] at hserved
      cases hsh : e.shadow with
      | none => rw [hserved, hsh]
      | some sh =>
        rw [hsh] at hserved
        dsimp only at hserved ⊢
        split_ifs at hserved ⊢ with hlength
        · exact hserved
        · obtain ⟨hnodup, hfit⟩ := hs.1.shadow (Store.find_some hfind).1 hsh
          refine ⟨writePayload s.store.memory sh.blocks offset.toNat (s.window.buffer.items.take count.toNat), ?_,
            read_writePiece_at hm _ hnodup (by omega), fun a ha => read_writePiece_other hm _ ha⟩
          simpa only [State.serving, State.taken_store, State.taken_buffer, State.wake_store, State.wake_window]
            using hserved

/-! ### READ-PIECE (R24 to R26) -/

/-- The RANGE condition of READ-PIECE that is tested before the record is looked up (R24). -/
theorem readPieceRange_iff (key : Half) (count source : Byte) :
    (badKey key || count == 0 || decide (Config.pieceMax < count.toNat) || decide (1 < source.toNat)) = true ↔
      key = 0 ∨ key = 0xFFFF ∨ count = 0 ∨ 64 < count.toNat ∨ 1 < source.toNat := by
  simp only [Bool.or_eq_true, badKey_iff, beq_iff_eq, decide_eq_true_eq, or_assoc]
  rfl

theorem nat1_toNat (b : Byte) : nat1 b.toNat = b := by simp [nat1]

theorem nat2_toNat (h : Half) : nat2 h.toNat = halfBytes h := by simp [nat2]

/-- The delivery of a piece asked for in a request's own bytes (R25). -/
theorem State.deliverPiece_eq (u : State) {e : Entry} {key : Half} (hkey : e.key = key.toNat) (blocks : List Block)
    (offset : Half) (count source : Byte) :
    u.deliverPiece e blocks offset.toNat count.toNat source =
      { u with
        window := u.window.fillBuffer (readPayload u.store.memory blocks offset.toNat count.toNat) }.answer .ok
        (halfBytes key ++ halfBytes offset ++ [count, source] ++ nat2 e.generation ++ [flag1 e.damage]) := by
  rw [State.deliverPiece, hkey, nat1_toNat, nat2_toNat, nat2_toNat]

section
variable {s : State} {key offset : Half} {count : Byte} {e : Entry} (h : s.Accepts)
  (hfind : s.store.find key.toNat = some e)
include h hfind

/-- READ-PIECE of committed contents: RANGE, a verification on demand or at offset 0, or the delivery (R24 to R26). -/
theorem servedAs_readPiece_committed
    (hrange : ¬(key = 0 ∨ key = 0xFFFF ∨ count = 0 ∨ 64 < count.toNat ∨ 1 < (0 : Byte).toNat)) :
    ServedAs (.readPiece key offset count 0) s fun u =>
      if e.length < offset.toNat + count.toNat then u.answer .range []
      else if offset = 0 ∨ (s.store.auditFlag = true ∧ e.audited = false) then
        u.holdWork (.readVerify key.toNat offset.toNat count.toNat)
      else u.deliverPiece e e.blocks offset.toNat count.toNat 0 := by
  have hserved := servedAs_of_onRecord_some (c := .readPiece key offset count 0) h rfl
    (by rwa [← Bool.not_eq_true, readPieceRange_iff]) hfind
  have hzero : offset.toNat = 0 ↔ offset = 0 := ⟨fun h0 => BitVec.eq_of_toNat_eq h0, fun h0 => h0 ▸ rfl⟩
  simpa only [ServedAs, if_true, Bool.or_eq_true, decide_eq_true_eq, hzero, State.serving_store, Store.mustVerify_iff]
    using hserved

/-- READ-PIECE of a shadow: NOT-OPEN, RANGE, or the delivery (R24, R25). -/
theorem servedAs_readPiece_shadow
    (hrange : ¬(key = 0 ∨ key = 0xFFFF ∨ count = 0 ∨ 64 < count.toNat ∨ 1 < (1 : Byte).toNat)) :
    ServedAs (.readPiece key offset count 1) s fun u =>
      if e.shadow = none then u.answer .notOpen []
      else if e.shadow.elim 0 Shadow.newLength < offset.toNat + count.toNat then u.answer .range []
      else u.deliverPiece e e.shadowBlocks offset.toNat count.toNat 1 := by
  have hserved := servedAs_of_onRecord_some (c := .readPiece key offset count 1) h rfl
    (by rwa [← Bool.not_eq_true, readPieceRange_iff]) hfind
  rw [ServedAs, if_neg (by decide)] at hserved
  rw [ServedAs, hserved]
  unfold Entry.shadowBlocks
  cases e.shadow <;> rfl

end

/-- Settles O19: the outcomes of `State.onRecord`, and the outcomes of the two sources. -/
theorem readPieceDeliversOrVerifies : Obligations.ReadPieceDeliversOrVerifies := by
  intro key offset count source s h
  by_cases hrange : key = 0 ∨ key = 0xFFFF ∨ count = 0 ∨ 64 < count.toNat ∨ 1 < source.toNat
  · rw [if_pos hrange]
    exact answers_of_onRecord_bad h rfl ((readPieceRange_iff key count source).2 hrange)
  · rw [if_neg hrange]
    cases hfind : s.store.find key.toNat with
    | none => exact answers_of_onRecord_none h rfl (by rwa [← Bool.not_eq_true, readPieceRange_iff]) hfind
    | some e =>
      have hkey := (Store.find_some hfind).2
      have hsource : source = 0 ∨ source = 1 := by
        have : source.toNat ≤ 1 := by omega
        bv_omega
      dsimp only
      obtain rfl | rfl := hsource
      · have hserved := servedAs_readPiece_committed (offset := offset) h hfind hrange
        have hcommitted : ¬(0 : Byte) = 1 := by decide
        simp only [State.deliverPiece_eq _ hkey] at hserved
        simp only [hcommitted, false_and, true_and, if_true, if_false]
        split_ifs at hserved ⊢ <;> exact hserved
      · have hserved := servedAs_readPiece_shadow (offset := offset) h hfind hrange
        have hshadow : ¬(1 : Byte) = 0 := by decide
        simp only [State.deliverPiece_eq _ hkey] at hserved
        simp only [hshadow, false_and, true_and, if_false]
        split_ifs at hserved ⊢ <;> exact hserved

end Sys2Proof.Machine

/-! CLOSE-CHANGE, CLOSE-ALL, ABANDON-CHANGE and the swap stage (O20). -/

namespace Sys2Proof.Machine

open Sys2Proof

/-! ### An entry after the swap stage (R29, R30) -/

theorem Entry.swapped_live {e : Entry} (h : e.shadow = none) (check : Half) : e.swapped check = e := by
  rw [Entry.swapped, h]

theorem Entry.swapped_open {e : Entry} {sh : Shadow} (h : e.shadow = some sh) (check : Half) :
    e.swapped check =
      { e with
        blocks := sh.blocks, length := sh.newLength, generation := (e.generation + 1) % 65536, check := check,
        damage := false, audited := true, shadow := none } := by
  rw [Entry.swapped, h]

@[simp] theorem Entry.swapped_shadow (check : Half) (e : Entry) : (e.swapped check).shadow = none := by
  cases h : e.shadow with
  | none => rw [Entry.swapped_live h, h]
  | some sh => rw [Entry.swapped_open h]

theorem Entry.swappedBy_cons (c : Nat × Half) (checks : List (Nat × Half)) (e : Entry) :
    e.swappedBy (c :: checks) = (e.underKey c.1 (Entry.swapped c.2)).swappedBy checks := rfl

/-- A LIVE entry is left as it is. -/
theorem Entry.swappedBy_live {e : Entry} (h : e.shadow = none) (checks : List (Nat × Half)) : e.swappedBy checks = e := by
  induction checks with
  | nil => rfl
  | cons c rest ih => rw [Entry.swappedBy_cons, Entry.underKey, Entry.swapped_live h, ite_self, ih]

/-- An entry is swapped with the first check under its key: it is LIVE after that. -/
theorem Entry.swappedBy_eq (checks : List (Nat × Half)) (e : Entry) :
    e.swappedBy checks = (checks.lookup e.key).elim e fun check => e.swapped check := by
  induction checks with
  | nil => rfl
  | cons c rest ih =>
    rw [Entry.swappedBy_cons, Entry.underKey, List.lookup_cons]
    by_cases hkey : e.key = c.1
    · rw [if_pos hkey, Entry.swappedBy_live (Entry.swapped_shadow _ _), beq_iff_eq.2 hkey]
      rfl
    · rw [if_neg hkey, ih, beq_eq_false_iff_ne.2 hkey]

/-- With a check for every OPEN entry, every OPEN entry is swapped with its check. -/
theorem Entry.swappedBy_of_mem {checks : List (Nat × Half)} {e : Entry}
    (h : e.isOpen = true → e.key ∈ checks.map Prod.fst) :
    e.swappedBy checks = e.swapped ((checks.lookup e.key).getD e.check) := by
  cases hsh : e.shadow with
  | none => rw [Entry.swappedBy_live hsh, Entry.swapped_live hsh]
  | some sh =>
    obtain ⟨⟨key, check⟩, hmem, hkey⟩ := List.mem_map.1 (h (by simp [Entry.isOpen, hsh]))
    have hfound : (checks.lookup e.key).isSome = true := by
      rw [List.lookup_isSome_iff]
      exact ⟨_, hmem, by simp [← hkey]⟩
    obtain ⟨check, hcheck⟩ := Option.isSome_iff_exists.1 hfound
    rw [Entry.swappedBy_eq, hcheck]
    rfl

/-! ### The store after the swap stage -/

theorem Store.swap_eq (st : Store) (checks : List (Nat × Half)) :
    st.swap checks = { st with catalog := st.catalog.map (Entry.swappedBy checks) } := by
  induction checks generalizing st with
  | nil =>
    rw [show Entry.swappedBy [] = id from rfl, List.map_id]
    rfl
  | cons c rest ih =>
    show (st.update c.1 (Entry.swapped c.2)).swap rest = _
    rw [ih, Store.update_catalog, List.map_map]
    rfl

/-- In a catalog with distinct keys two changes of a key agree when they agree on its one entry. -/
theorem Store.update_eq_withEntry {st : Store} (h : st.Wf) {key : Nat} {e : Entry} (he : st.find key = some e)
    {f g : Entry → Entry} (hfg : f e = g e) : st.update key f = st.withEntry key g := by
  simp only [Store.update, Store.withEntry, Store.mk.injEq, true_and, and_true]
  refine List.map_congr_left fun x hx => ?_
  by_cases hkey : x.key = key
  · have hsame : x = e := Option.some.inj (((Store.find_iff h.1).2 ⟨hx, hkey⟩).symm.trans he)
    rw [if_pos hkey, if_pos hkey, hsame, hfg]
  · rw [if_neg hkey, if_neg hkey]

/-- The generation of a record after the swap stage is that of its swapped entry. -/
theorem Store.generationOf_swap {st : Store} (h : st.Wf) (checks : List (Nat × Half)) {e : Entry}
    (he : e ∈ st.catalog) : (st.swap checks).generationOf e.key = (e.swappedBy checks).generation := by
  have hcloses := e.swappedBy_closes checks
  have hwf := Store.wf_of_closes (st.swap_catalog checks) (Entry.swappedBy_closes checks) h
  have hmem : e.swappedBy checks ∈ (st.swap checks).catalog := by
    rw [Store.swap_catalog]
    exact List.mem_map_of_mem he
  rw [Store.generationOf, (Store.find_iff hwf.1).2 ⟨hmem, hcloses.key⟩]
  rfl

section
variable {s : State} (hs : s.StoreWf)
include hs

/-- The swap stage of a CLOSE-CHANGE (R29). -/
theorem execSwapStage_close {key : Nat} {check : Half} {e : Entry} {sh : Shadow}
    (hwork : s.window.work = some (.close key check)) (hfind : s.store.find key = some e) (hsh : e.shadow = some sh) :
    exec .swapStage s =
      .next ({ s with
        store := s.store.withEntry key fun x =>
          { x with
            blocks := sh.blocks, length := sh.newLength, generation := (e.generation + 1) % 65536, check := check,
            damage := false, audited := true, shadow := none } }.answer .ok
        (nat2 key ++ nat2 ((e.generation + 1) % 65536) ++ nat2 sh.newLength ++ halfBytes check ++
          [nat1 sh.blocks.length, nat1 e.blocks.length])) := by
  rw [← Store.update_eq_withEntry hs.1 hfind (Entry.swapped_open hsh check)]
  show execSwapStage s = _
  unfold execSwapStage
  rw [hwork]
  dsimp only
  rw [hfind]
  dsimp only
  rw [Entry.swapped_open hsh]
  rfl

/-- The swap stage of a CLOSE-ALL (R29, R30). -/
theorem execSwapStage_closeAll {checks : List (Nat × Half)} (hwork : s.window.work = some (.closeAll checks)) :
    exec .swapStage s =
      .next ({ s with
        store :=
          { s.store with
            catalog := s.store.catalog.map fun (e : Entry) => e.swapped ((checks.lookup e.key).getD e.check) } }.answer .ok
        ([nat1 checks.length] ++
          (s.store.catalog.filter Entry.isOpen).flatMap fun (e : Entry) =>
            nat2 e.key ++ nat2 ((e.generation + 1) % 65536))) := by
  have hkeys : checks.map Prod.fst = (s.store.catalog.filter Entry.isOpen).map Entry.key := hs.2 _ hwork
  have hswapped : ∀ e ∈ s.store.catalog,
      e.swappedBy checks = e.swapped ((checks.lookup e.key).getD e.check) := fun e he =>
    Entry.swappedBy_of_mem fun hopen => hkeys ▸ List.mem_map_of_mem (List.mem_filter.2 ⟨he, hopen⟩)
  have hlines : (checks.flatMap fun c => nat2 c.1 ++ nat2 ((s.store.swap checks).generationOf c.1)) =
      (s.store.catalog.filter Entry.isOpen).flatMap fun e => nat2 e.key ++ nat2 ((e.generation + 1) % 65536) := by
    calc
      _ = (checks.map Prod.fst).flatMap fun key => nat2 key ++ nat2 ((s.store.swap checks).generationOf key) := by
        rw [List.flatMap_map]
      _ = _ := by
        rw [hkeys, List.flatMap_map]
        refine List.flatMap_congr fun e he => ?_
        obtain ⟨hmem, hopen⟩ := List.mem_filter.1 he
        obtain ⟨sh, hsh⟩ := Option.isSome_iff_exists.1 hopen
        rw [Store.generationOf_swap hs.1 checks hmem, hswapped e hmem, Entry.swapped_open hsh]
  show execSwapStage s = _
  unfold execSwapStage
  rw [hwork]
  dsimp only
  rw [hlines, Store.swap_eq, List.map_congr_left hswapped]

end

/-! ### The requests (R28, R30, R33) -/

/-- No change is open exactly when the count of OPEN records is 0 (R19). -/
theorem Store.openCount_eq_zero {st : Store} : st.openCount = 0 ↔ ∀ e ∈ st.catalog, e.shadow = none := by
  simp [Store.openCount, Entry.isOpen, List.countP_eq_zero]

section
variable {s : State} (h : s.Accepts)
include h

/-- CLOSE-CHANGE on a record: NOT-OPEN, or the check stage, whose check it holds (R28). -/
theorem servedAs_closeChange {key : Half} (hkey : badKey key = false) {e : Entry}
    (hfind : s.store.find key.toNat = some e) :
    ServedAs (.closeChange key) s fun u =>
      e.shadow.elim (u.answer .notOpen []) fun sh =>
        u.holdWork (.close key.toNat (u.store.shadowCheck key.toNat sh)) := by
  rw [ServedAs, servedAs_of_onRecord_some (c := .closeChange key) h rfl hkey hfind]
  cases e.shadow <;> rfl

/-- ABANDON-CHANGE on a record: NOT-OPEN, or the removal of the shadow (R33). -/
theorem servedAs_abandonChange {key : Half} (hkey : badKey key = false) {e : Entry}
    (hfind : s.store.find key.toNat = some e) :
    ServedAs (.abandonChange key) s fun u =>
      e.shadow.elim (u.answer .notOpen []) fun sh =>
        { u with store := u.store.withEntry key.toNat Entry.abandoned }.answer .ok
          (halfBytes key ++ [nat1 sh.blocks.length]) := by
  rw [ServedAs, servedAs_of_onRecord_some (c := .abandonChange key) h rfl hkey hfind]
  cases e.shadow <;> rfl

/-- CLOSE-ALL answers at once with no open change, and holds the checks of its check stage otherwise (R30). -/
theorem exec_closeAll_eq :
    exec .closeAll s =
      .next (if s.store.openCount = 0 then (s.serving .closeAll).answer .ok [0]
        else (s.serving .closeAll).holdWork (.closeAll (s.serving .closeAll).store.openChecks)) := by
  rw [exec_served h rfl, State.serving_store]

end

/-- Settles O20: the outcomes of `State.onRecord` for the requests, and the swap stage by the check held for each OPEN
record. -/
theorem commitAndAbandonRequests : Obligations.CommitAndAbandonRequests := by
  refine ⟨⟨fun key s h => ?_, fun s h => ⟨fun hnone => ?_, fun ⟨e, he, hopen⟩ => ?_⟩⟩, fun s hs =>
    ⟨fun key check e sh hwork hfind hsh => execSwapStage_close hs hwork hfind hsh, fun checks hwork => ?_⟩⟩
  · split
    · rename_i hbad
      rw [← badKey_iff] at hbad
      exact ⟨answers_of_onRecord_bad h rfl hbad, answers_of_onRecord_bad h rfl hbad⟩
    · rename_i hgood
      rw [← badKey_iff, Bool.not_eq_true] at hgood
      cases hfind : s.store.find key.toNat with
      | none => exact ⟨answers_of_onRecord_none h rfl hgood hfind, answers_of_onRecord_none h rfl hgood hfind⟩
      | some e =>
        have hclose := servedAs_closeChange h hgood hfind
        have habandon := servedAs_abandonChange h hgood hfind
        revert hclose habandon
        dsimp only
        cases e.shadow with
        | none => exact And.intro
        | some sh => exact And.intro
  · rw [Answers, ServedAs, exec_closeAll_eq h, if_pos (Store.openCount_eq_zero.2 hnone)]
  · rw [ServedAs, exec_closeAll_eq h, if_neg fun hzero => hopen (Store.openCount_eq_zero.1 hzero e he)]
    rfl
  · rw [execSwapStage_closeAll hs hwork]
    rfl

end Sys2Proof.Machine

/-! The audit (O21). -/

namespace Sys2Proof.Machine

open Sys2Proof

/-- In an ascending catalog the audit's next record is the one with the smallest key above its position (R37). -/
theorem Store.auditNext_eq_some {st : Store} (hsorted : st.catalog.Pairwise fun a b => a.key < b.key) {e : Entry}
    (he : e ∈ st.catalog) (hbeyond : st.auditPosition < e.key)
    (hleast : ∀ x ∈ st.catalog, st.auditPosition < x.key → e.key ≤ x.key) : st.auditNext = some e := by
  obtain ⟨before, after, hsplit⟩ := List.append_of_mem he
  rw [hsplit, List.pairwise_append] at hsorted
  obtain ⟨-, -, hbefore⟩ := hsorted
  rw [Store.auditNext, hsplit, List.find?_append, List.find?_eq_none.2]
  · simp [hbeyond]
  · intro x hx
    have hlt := hbefore x hx e List.mem_cons_self
    have hle := hleast x (hsplit ▸ List.mem_append_left _ hx)
    simp only [decide_eq_true_eq]
    omega

theorem Store.auditNext_eq_none {st : Store} : st.auditNext = none ↔ ∀ x ∈ st.catalog, x.key ≤ st.auditPosition := by
  simp [Store.auditNext]

theorem Store.anyDamage_iff {st : Store} : st.anyDamage = true ↔ ∃ e ∈ st.catalog, e.damage = true := by
  simp [Store.anyDamage]

/-- The audit can step while it is in progress, the main domain is up and no request is in the store's hand (R38, R40). -/
theorem State.auditRuns_of {s : State} (hflag : s.store.auditFlag = true) (hup : s.power.main ≠ .off)
    (hwork : s.window.work = none ∨ s.window.work = some .quiesce) : s.auditRuns = true := by
  rcases hwork with hwork | hwork <;> simp [State.auditRuns, State.mainUp, hflag, hup, hwork, Work.ofStore]

theorem execAuditStep_record {s : State} (hruns : s.auditRuns = true) {e : Entry} (hnext : s.store.auditNext = some e) :
    exec .auditStep s =
      .next { s with
        store := { (if e.audited then s.store else s.store.verify e.key) with auditPosition := e.key } } := by
  show execAuditStep s = _
  unfold execAuditStep
  rw [if_pos hruns, hnext]

theorem execAuditStep_completes {s : State} (hruns : s.auditRuns = true) (hnext : s.store.auditNext = none) :
    exec .auditStep s =
      .next { s with
        store := { s.store with auditFlag := false }
        notices := s.notices.raiseIf s.store.anyDamage Notices.raiseDamageFound } := by
  show execAuditStep s = _
  unfold execAuditStep
  rw [if_pos hruns, hnext]

/-- Settles O21: the next record by the order of the catalog, and its verification by `Store.verify_eq_withEntry`. -/
theorem auditStepsThroughTheCatalog : Obligations.AuditStepsThroughTheCatalog := by
  intro s hs hflag hup hwork
  have hruns := State.auditRuns_of hflag hup hwork
  refine ⟨fun e he hbeyond hleast => ?_, fun hdone => ?_⟩
  · rw [execAuditStep_record hruns (Store.auditNext_eq_some hs.1.1 he hbeyond hleast),
      Store.verify_eq_withEntry hs.1 (Store.find_of_mem hs.1.1 he)]
    split <;> rfl
  · rw [execAuditStep_completes hruns (Store.auditNext_eq_none.2 hdone)]
    simp only [← Store.anyDamage_iff]
    rfl

end Sys2Proof.Machine

/-! The counter requests (O25), tend actions and their answers (O26). -/

namespace Sys2Proof.Machine

open Sys2Proof

/-! ### One counter of the catalog (R53, R54) -/

theorem Store.counterAt_eq_some {st : Store} {key index : Nat} {c : Counter} :
    st.counterAt key index = some c ↔ ∃ e, st.find key = some e ∧ e.counters[index]? = some c :=
  Option.bind_eq_some_iff

theorem Store.counterAt_eq_none {st : Store} {key index : Nat} :
    st.counterAt key index = none ↔ ∀ e, st.find key = some e → e.counters.length ≤ index := by
  simp only [Store.counterAt, Option.bind_eq_none_iff, List.getElem?_eq_none_iff]

theorem Store.update_setCounter (st : Store) (key index : Nat) (c : Counter) :
    (st.update key fun e => e.setCounter index c) = st.withCounter key index c := rfl

/-- In a catalog with distinct keys, a counter replaced by itself leaves the store as it was. -/
theorem Store.withCounter_self {st : Store} (h : st.Wf) {key index : Nat} {c : Counter}
    (hc : st.counterAt key index = some c) : st.withCounter key index c = st := by
  obtain ⟨e, hfind, hget⟩ := Store.counterAt_eq_some.1 hc
  have hself : e.setCounter index c = id e := by
    obtain ⟨hlt, rfl⟩ := List.getElem?_eq_some_iff.1 hget
    simp [Entry.setCounter]
  rw [← Store.update_setCounter, Store.update_eq_withEntry h hfind hself]
  simp [Store.withEntry]

/-! ### A counter request that is taken (R46) -/

section
variable {c : Instr} {s : State} {bad : Bool} {key : Half} {index : Byte} {act : Counter → Result × Counter × Bool}
  (h : s.Accepts)
  (hexec : exec c s = .next (submit (requestBytes c) (fun _ u => u.onCounter bad key index act) s))
include h hexec

/-- A record with no counter of the index: NO-COUNTER with its number of counters. -/
theorem answers_of_onCounter_none (hbad : bad = false) {e : Entry} (hfind : s.store.find key.toNat = some e)
    (hindex : e.counters.length ≤ index.toNat) : Answers c s .noCounter [nat1 e.counters.length] := by
  have hserved := servedAs_of_onRecord_some h hexec hbad hfind
  rwa [List.getElem?_eq_none hindex] at hserved

/-- A counter that exists is replaced, and the answer names it as it was and as it is (R46). -/
theorem servedAs_of_onCounter_some (hbad : bad = false) {e : Entry} (hfind : s.store.find key.toNat = some e)
    {old new : Counter} (hold : e.counters[index.toNat]? = some old) {r : Result} {limit : Bool}
    (hact : act old = (r, new, limit)) :
    ServedAs c s fun u =>
      { u with store := u.store.withCounter key.toNat index.toNat new }.answer r
        (counterData key index e.counters.length old new limit) := by
  have hserved := servedAs_of_onRecord_some h hexec hbad hfind
  rw [hold] at hserved
  simp only [hact] at hserved
  exact hserved

/-- A counter request that leaves the counter as it is answers and changes nothing else. -/
theorem answers_of_onCounter_same (hwf : s.store.Wf) (hbad : bad = false) {e : Entry}
    (hfind : s.store.find key.toNat = some e) {x : Counter} (hold : e.counters[index.toNat]? = some x) {r : Result}
    {limit : Bool} (hact : act x = (r, x, limit)) :
    Answers c s r (counterData key index e.counters.length x x limit) := by
  have hserved := servedAs_of_onCounter_some h hexec hbad hfind hold hact
  have hself := Store.withCounter_self hwf (Store.counterAt_eq_some.2 ⟨e, hfind, hold⟩)
  rw [ServedAs] at hserved
  rw [Answers, ServedAs, hserved, State.serving_store, hself, ← State.serving_store c s]

end

/-- Each counter request is a turn of one counter; only SET-BOUNDS has a check of its own (R46, R51). -/
theorem exec_counterRequest {c : Instr} {key : Half} {index : Byte} {v w : Half} (s : State)
    (hc : c = .readCounter key index ∨ c = .adjustCounter key index v ∨ c = .setCounter key index v ∨
      c = .swapCounter key index v w ∨ c = .setBounds key index v w) :
    ∃ bad act, exec c s = .next (submit (requestBytes c) (fun _ u => u.onCounter bad key index act) s) ∧
      (bad = true ↔ key = 0 ∨ key = 0xFFFF ∨ (c = .setBounds key index v w ∧ w.toInt < v.toInt)) := by
  rcases hc with rfl | rfl | rfl | rfl | rfl
  · exact ⟨badKey key, readCounterStep, rfl, by simp [badKey_iff]⟩
  · exact ⟨badKey key, adjustCounterStep v.toInt, rfl, by simp [badKey_iff]⟩
  · exact ⟨badKey key, setCounterStep v.toInt, rfl, by simp [badKey_iff]⟩
  · exact ⟨badKey key, swapCounterStep v.toInt w.toInt, rfl, by simp [badKey_iff]⟩
  · exact ⟨badKey key || decide (w.toInt < v.toInt), setBoundsStep v.toInt w.toInt, rfl, by
      simp [badKey_iff, or_assoc]⟩

/-- The value bounded, and the limit flag set when that moved it (R44). -/
theorem boundedTo_eq {c : Counter} {computed new : Int} (hnew : new = min c.ceiling (max c.floor computed)) :
    boundedTo c computed = (.ok, { c with value := new }, decide (new ≠ computed)) := by
  subst hnew
  simp only [boundedTo, limitFlag, ne_comm (a := computed)]
  rfl

/-- Settles O25: the outcomes of `State.onCounter`, and what each request makes of the counter it finds. -/
theorem counterRequests : Obligations.CounterRequests := by
  refine ⟨fun c key index v w s h hc => ?_, fun key index v w s e c h hs h0 h1 hfind hget => ?_⟩
  · obtain ⟨bad, act, hexec, hbad⟩ := exec_counterRequest s hc
    split
    · exact answers_of_onRecord_bad h hexec (hbad.2 ‹_›)
    · have hgood : bad = false := by rwa [← Bool.not_eq_true, hbad]
      split
      · exact answers_of_onRecord_none h hexec hgood ‹_›
      · exact answers_of_onCounter_none h hexec hgood ‹_›
  · have hkey := badKey_false h0 h1
    refine ⟨?_, fun new hnew => ?_, fun new hnew => ?_, fun new hnew hvalue => ?_, fun hvalue => ?_,
      fun new hnew hbounds => ?_⟩
    · exact answers_of_onCounter_same (c := .readCounter key index) h rfl hs.1 hkey hfind hget rfl
    · exact servedAs_of_onCounter_some (c := .adjustCounter key index v) h rfl hkey hfind hget (boundedTo_eq hnew)
    · exact servedAs_of_onCounter_some (c := .setCounter key index v) h rfl hkey hfind hget (boundedTo_eq hnew)
    · exact servedAs_of_onCounter_some (c := .swapCounter key index v w) h rfl hkey hfind hget
        ((if_pos hvalue).trans (boundedTo_eq hnew))
    · exact answers_of_onCounter_same (c := .swapCounter key index v w) h rfl hs.1 hkey hfind hget (if_neg hvalue)
    · have hgood : (badKey key || decide (w.toInt < v.toInt)) = false := by simpa [hkey] using hbounds
      exact servedAs_of_onCounter_some (c := .setBounds key index v w) h rfl hgood hfind hget (boundedTo_eq hnew)

/-! ### Tend actions (R53, R54) -/

theorem Store.tend_applied {st : Store} {a : TendAction} {c : Counter} (hc : st.counterAt a.key a.index = some c)
    {new : Int} (hnew : new = min c.ceiling (max c.floor (c.value + a.amount))) :
    st.tend a = (st.withCounter a.key a.index { c with value := new }, .applied new) := by
  subst hnew
  unfold Store.tend
  rw [hc]
  rfl

theorem Store.tend_absent {st : Store} {a : TendAction} (hc : st.counterAt a.key a.index = none) :
    st.tend a = (st, .absent) := by
  unfold Store.tend
  rw [hc]

theorem execTendAction_eq {s : State} {a : TendAction} {rest : List TendAction} (hruns : s.power.keepRuns = true)
    (htends : s.engine.tends = a :: rest) :
    exec .tendAction s =
      .next { s with
        store := (s.store.tend a).1
        engine :=
          { s.engine with
            tends := rest
            answers :=
              s.engine.answers ++ [{ slot := a.slot, tag := a.tag, key := a.key, result := (s.store.tend a).2 }] } } := by
  show execTendAction s = _
  unfold execTendAction
  rw [hruns, htends]

/-! ### Tend answers (R97) -/

theorem execTendAnswer_eq {s : State} {a : TendAnswer} {rest : List TendAnswer} (hruns : s.power.keepRuns = true)
    (hanswers : s.engine.answers = a :: rest) :
    exec .tendAnswer s =
      .next { s with engine := { s.engine with slots := s.engine.answeredSlots a, answers := rest } } := by
  show execTendAnswer s = _
  unfold execTendAnswer
  rw [hruns, hanswers]

/-- A tend answer turns at most the event of its slot, and that one only when it is "absent". -/
theorem Engine.answeredSlots_get (en : Engine) (a : TendAnswer) (i : Slot) :
    (en.answeredSlots a).get i =
      (en.slots.get i).map fun e => if a.result = .absent ∧ i = a.slot then e.lostTarget a else e := by
  unfold Engine.answeredSlots
  cases a.result with
  | applied value => simp
  | absent =>
    by_cases hslot : i = a.slot
    · subst hslot
      simp
    · rw [Table.get_set_other _ _ (Ne.symm hslot)]
      simp [hslot]

theorem Event.lostTarget_notify {e : Event} (h : e.action = .notify) (a : TendAnswer) : e.lostTarget a = e := by
  simp [Event.lostTarget, Event.retarget, h]

theorem Event.lostTarget_tend {e : Event} {key index : Nat} {step : Int} (h : e.action = .tend key index step)
    (a : TendAnswer) :
    e.lostTarget a =
      if e.tag = a.tag ∧ key = a.key then { e with action := .notify, targetLost := true } else e := by
  simp only [Event.lostTarget, Event.retarget, h, ite_and]

/-- Settles O26: the outcomes of `Store.tend`, and the one event a tend answer can turn. -/
theorem tendActionsAndAnswers : Obligations.TendActionsAndAnswers := by
  refine ⟨fun s a rest hruns htends => ⟨fun e c new hfind hget hnew => ?_, fun hnone => ?_⟩,
    fun s a rest hruns hanswers => ⟨_, execTendAnswer_eq hruns hanswers, fun i => ?_⟩⟩
  · rw [execTendAction_eq hruns htends, Store.tend_applied (Store.counterAt_eq_some.2 ⟨e, hfind, hget⟩) hnew]
  · rw [execTendAction_eq hruns htends, Store.tend_absent (Store.counterAt_eq_none.2 hnone)]
  · rw [Engine.answeredSlots_get]
    congr 1
    funext e
    cases haction : e.action with
    | notify => rw [Event.lostTarget_notify haction, ite_self]
    | tend key index step =>
      rw [Event.lostTarget_tend haction, ← ite_and]
      simp only [and_assoc]

end Sys2Proof.Machine

/-! SUPPORT. What a command can do to the counters: the cases of `LedgerStep`, which case each command is, and the counters
of a CREATE in hand. -/

namespace Sys2Proof.Machine

open Sys2Proof

/-! ### The counters of the catalog -/

/-- The counters of the catalog, record by record. -/
def Store.ledger (st : Store) : List (Nat × List Counter) := st.catalog.map fun e => (e.key, e.counters)

theorem Store.mem_ledger {st : Store} {p : Nat × List Counter} :
    p ∈ st.ledger ↔ ∃ e ∈ st.catalog, (e.key, e.counters) = p := List.mem_map

/-- Entries changed in neither key nor counters. -/
theorem Store.ledger_of_map {st st' : Store} {g : Entry → Entry} (hcat : st'.catalog = st.catalog.map g)
    (hg : ∀ e, (g e).key = e.key ∧ (g e).counters = e.counters) : st'.ledger = st.ledger := by
  simp only [Store.ledger, hcat, List.map_map, Function.comp_def, hg]

theorem Store.ledger_update {st : Store} {key : Nat} {f : Entry → Entry}
    (hf : ∀ e, (f e).key = e.key ∧ (f e).counters = e.counters) : (st.update key f).ledger = st.ledger := by
  refine Store.ledger_of_map (st.update_catalog key f) fun e => ?_
  unfold Entry.underKey
  split
  · exact hf e
  · exact ⟨rfl, rfl⟩

@[simp] theorem Store.verify_ledger (st : Store) (key : Nat) : (st.verify key).ledger = st.ledger :=
  Store.ledger_update fun _ => ⟨rfl, rfl⟩

@[simp] theorem Store.abandonAll_ledger (st : Store) : st.abandonAll.ledger = st.ledger :=
  Store.ledger_of_map (g := Entry.abandoned) rfl fun _ => ⟨rfl, rfl⟩

@[simp] theorem Store.startAudit_ledger (st : Store) : st.startAudit.ledger = st.ledger :=
  Store.ledger_of_map (g := fun e => { e with audited := false }) rfl fun _ => ⟨rfl, rfl⟩

theorem Entry.swapped_counters (check : Half) (e : Entry) : (e.swapped check).counters = e.counters := by
  unfold Entry.swapped
  split <;> rfl

/-- A swap stage replaces contents, and no counter (R29). -/
@[simp] theorem Store.swap_ledger (st : Store) (checks : List (Nat × Half)) : (st.swap checks).ledger = st.ledger := by
  induction checks generalizing st with
  | nil => rfl
  | cons c rest ih =>
    exact (ih _).trans (Store.ledger_update fun e => ⟨(e.swapped_closes c.2).key, e.swapped_counters c.2⟩)

/-! ### Everything a command can do to the counters of the catalog -/

/-- The commands that can change a counter of a record that stays (R48 to R51, R53). -/
def Instr.writesCounter : Instr → Bool
  | .adjustCounter .. => true
  | .setCounter .. => true
  | .swapCounter .. => true
  | .setBounds .. => true
  | .tendAction => true
  | _ => false

/-- Everything a command can do to the counters of the catalog. -/
inductive LedgerStep (s t : State) : Instr → Prop
  /-- Records and counters as they were. -/
  | same (c : Instr) (hledger : t.store.ledger = s.store.ledger) : LedgerStep s t c
  /-- The entry step of the CREATE in hand. -/
  | entered (key length : Nat) (blocks : List Block) (check : Half) (counters : List Counter)
      (hin : s.window.work = some (.create key length blocks check counters))
      (hcat : t.store.catalog = insertEntry (newEntry key length blocks check counters) s.store.catalog) :
      LedgerStep s t .entryStep
  /-- A record leaves with its counters. -/
  | retired (key : Half) (hcat : t.store.catalog = s.store.catalog.filter fun e => e.key != key.toNat) :
      LedgerStep s t (.retire key)
  /-- One counter is replaced; where the command writes no counter, by itself. -/
  | replaced (c : Instr) (key index : Nat) (old new : Counter) (hold : s.store.counterAt key index = some old)
      (hnew : old.Wf → new.Wf) (hwrites : Instr.writesCounter c = true ∨ new = old)
      (hcat : t.store.catalog = (s.store.withCounter key index new).catalog) : LedgerStep s t c
  /-- A fall of the keep supply. -/
  | faulted (faults : List RetentionFault) (busy : Bool)
      (hcat : t.store.catalog = (faults.foldl (Store.fault busy) s.store).catalog) :
      LedgerStep s t (.retentionDoubtful faults)
  /-- A cell reset. -/
  | cleared (hcat : t.store.catalog = []) : LedgerStep s t .cellReset

/-! ### The shapes a command's effect takes -/

/-- An effect that leaves the store alone. -/
theorem LedgerStep.of_store {s t : State} {c : Instr} (h : t.store = s.store) : LedgerStep s t c := .same c (by rw [h])

/-- A submit: nothing of the store changes, or the owning block acts on the store as it stands. -/
theorem submit_ledgerStep {s : State} {c : Instr} {bytes : List Byte} {act : Bool → State → State}
    (hact : ∀ woke u, u.store = s.store → LedgerStep s (act woke u) c) : LedgerStep s (submit bytes act s) c :=
  submit_cases (P := fun t => LedgerStep s t c) (.of_store rfl) (.of_store rfl) fun _ woke => hact woke _ (by simp)

theorem State.onRecord_ledgerStep {s u : State} {c : Instr} {bad : Bool} {key : Half} {act : Entry → State}
    (hu : u.store = s.store) (hact : ∀ e, LedgerStep s (act e) c) : LedgerStep s (u.onRecord bad key act) c :=
  State.onRecord_cases (P := fun t => LedgerStep s t c) (fun _ => .of_store hu) (fun _ _ => .of_store hu)
    fun _ e _ => hact e

/-- A counter request past its checks replaces the counter it names by the one its own step makes of it (R46). -/
theorem State.onCounter_ledgerStep {s u : State} {c : Instr} {bad : Bool} {key : Half} {index : Byte}
    {act : Counter → Result × Counter × Bool} (hu : u.store = s.store)
    (hwf : bad = false → ∀ x : Counter, x.Wf → (act x).2.1.Wf)
    (hwrites : Instr.writesCounter c = true ∨ ∀ x, (act x).2.1 = x) :
    LedgerStep s (u.onCounter bad key index act) c :=
  State.onCounter_cases (P := fun t => LedgerStep s t c) (fun _ => .of_store hu) (fun _ _ => .of_store hu)
    (fun _ _ _ _ => .of_store hu) fun hbad e x hfind hget =>
      .replaced c key.toNat index.toNat x (act x).2.1 (Store.counterAt_eq_some.2 ⟨e, hu ▸ hfind, hget⟩) (hwf hbad x)
        (hwrites.imp_right fun h => h x) (by rw [← hu]; rfl)

/-- A reading ends open changes and clears audited marks at most. -/
theorem State.takeReading_ledger {s u : State} (hu : u.store = s.store) (r : Reading) :
    (u.takeReading r).store.ledger = s.store.ledger := by
  obtain ⟨_, _, h⟩ | ⟨_, _, h⟩ | ⟨_, _, h⟩ | ⟨_, _, h⟩ := u.takeReading_cases r <;> simp [h, hu]

/-! ### The counter requests and tend actions (R47 to R54) -/

theorem boundedTo_keeps_wf {c : Counter} (h : c.Wf) (computed : Int) : (boundedTo c computed).2.1.Wf :=
  Counter.bound_wf h computed

theorem swapCounterStep_wf {c : Counter} (h : c.Wf) (expected new : Int) : (swapCounterStep expected new c).2.1.Wf := by
  unfold swapCounterStep
  split
  · exact boundedTo_keeps_wf h new
  · exact h

theorem setBoundsStep_wf {floor ceiling : Half} (h : ¬ ceiling.toInt < floor.toInt) (c : Counter) :
    (setBoundsStep floor.toInt ceiling.toInt c).2.1.Wf :=
  boundedTo_wf (Half.toInt_range floor).1 (not_lt.1 h) (Half.toInt_range ceiling).2 c c.value

theorem execTendAction_ledgerStep {s t : State} (h : exec .tendAction s = .next t) : LedgerStep s t .tendAction := by
  cases h
  split
  · rename_i a rest _ _
    obtain ⟨_, htend⟩ | ⟨x, hat, htend⟩ := s.store.tend_cases a <;> rw [htend]
    · exact .of_store rfl
    · exact .replaced _ a.key a.index x _ hat (fun hx => Counter.bound_wf hx _) (.inl rfl) rfl
  · exact .of_store rfl
  · exact .of_store rfl

/-! ### The record store's own commands -/

theorem execCreate_ledgerStep {key length : Half} {fill count : Byte} {c0 c1 c2 c3 : CounterSpec} {s t : State}
    (h : exec (.create key length fill count c0 c1 c2 c3) s = .next t) :
    LedgerStep s t (.create key length fill count c0 c1 c2 c3) := by
  cases h
  refine submit_ledgerStep fun _ u hu => ?_
  split
  · exact .of_store hu
  · exact .same _ (by rw [← hu]; rfl)

theorem execEntryStep_ledgerStep {s t : State} (h : exec .entryStep s = .next t) : LedgerStep s t .entryStep := by
  cases h
  split
  · exact .entered _ _ _ _ _ ‹_› rfl
  · exact .of_store rfl

theorem execRetire_ledgerStep {key : Half} {s t : State} (h : exec (.retire key) s = .next t) :
    LedgerStep s t (.retire key) := by
  cases h
  refine submit_ledgerStep fun _ u hu => State.onRecord_ledgerStep hu fun e => ?_
  split
  · exact .of_store hu
  · exact .retired key (by rw [← hu]; rfl)

theorem execOpenChange_ledgerStep {key newLength : Half} {copyIn : Byte} {s t : State}
    (h : exec (.openChange key newLength copyIn) s = .next t) : LedgerStep s t (.openChange key newLength copyIn) := by
  cases h
  refine submit_ledgerStep fun _ u hu => ?_
  split
  · exact .of_store hu
  · exact .of_store hu
  · split
    · exact .of_store hu
    · exact .same _ (by rw [← hu]; rfl)

theorem execOpenChangeEntry_ledgerStep {s t : State} (h : exec .openChangeEntry s = .next t) :
    LedgerStep s t .openChangeEntry := by
  cases h
  split
  · split
    · exact .same _ (Store.ledger_update fun _ => ⟨rfl, rfl⟩)
    · exact .of_store rfl
  · exact .of_store rfl

theorem execVerification_ledgerStep {s t : State} (h : exec .verification s = .next t) :
    LedgerStep s t .verification := by
  cases h
  split
  · split
    · exact .same _ (s.store.verify_ledger _)
    · exact .of_store rfl
  · split
    · exact .same _ (s.store.verify_ledger _)
    · exact .of_store rfl
  · exact .of_store rfl

theorem execWritePiece_ledgerStep {key offset : Half} {count : Byte} {s t : State}
    (h : exec (.writePiece key offset count) s = .next t) : LedgerStep s t (.writePiece key offset count) := by
  cases h
  refine submit_ledgerStep fun _ u hu => State.onRecord_ledgerStep hu fun e => ?_
  split
  · exact .of_store hu
  · split
    · exact .of_store hu
    · exact .same _ (by rw [← hu]; rfl)

theorem execSwapStage_ledgerStep {s t : State} (h : exec .swapStage s = .next t) : LedgerStep s t .swapStage := by
  cases h
  split
  · split
    · exact .same _ (s.store.swap_ledger _)
    · exact .of_store rfl
  · exact .same _ (s.store.swap_ledger _)
  · exact .of_store rfl

theorem execAbandonChange_ledgerStep {key : Half} {s t : State} (h : exec (.abandonChange key) s = .next t) :
    LedgerStep s t (.abandonChange key) := by
  cases h
  refine submit_ledgerStep fun _ u hu => State.onRecord_ledgerStep hu fun e => ?_
  split
  · exact .of_store hu
  · exact .same _ (hu ▸ Store.ledger_update fun _ => ⟨rfl, rfl⟩)

theorem execAuditStep_ledgerStep {s t : State} (h : exec .auditStep s = .next t) : LedgerStep s t .auditStep := by
  cases h
  split
  · split
    · split
      · exact .same _ rfl
      · exact .same _ (s.store.verify_ledger _)
    · exact .same _ rfl
  · exact .of_store rfl

theorem execMinuteEvent_ledgerStep {r : Reading} {s t : State} (h : exec (.minuteEvent r) s = .next t) :
    LedgerStep s t (.minuteEvent r) := by
  cases h
  split
  · exact .of_store rfl
  · dsimp only
    split
    · exact .of_store rfl
    · split
      · exact .of_store rfl
      · exact .same _ (State.takeReading_ledger (by rfl) _)

theorem execRetentionDoubtful_ledgerStep {faults : List RetentionFault} {s t : State}
    (h : exec (.retentionDoubtful faults) s = .next t) : LedgerStep s t (.retentionDoubtful faults) := by
  cases h
  split
  · exact .faulted faults s.window.busy rfl
  · exact .of_store rfl

/-! ### Every command -/

/-- Everything a command can do to the counters of the catalog. -/
theorem exec_ledgerStep {c : Instr} {s t : State} (h : exec c s = .next t) : LedgerStep s t c := by
  cases c
  case create => exact execCreate_ledgerStep h
  case entryStep => exact execEntryStep_ledgerStep h
  case retire => exact execRetire_ledgerStep h
  case openChange => exact execOpenChange_ledgerStep h
  case openChangeEntry => exact execOpenChangeEntry_ledgerStep h
  case verification => exact execVerification_ledgerStep h
  case writePiece => exact execWritePiece_ledgerStep h
  case swapStage => exact execSwapStage_ledgerStep h
  case abandonChange => exact execAbandonChange_ledgerStep h
  case auditStep => exact execAuditStep_ledgerStep h
  case readCounter =>
    cases h
    exact submit_ledgerStep fun _ _ hu => State.onCounter_ledgerStep hu (fun _ _ hx => hx) (.inr fun _ => rfl)
  case adjustCounter | setCounter =>
    cases h
    exact submit_ledgerStep fun _ _ hu =>
      State.onCounter_ledgerStep hu (fun _ _ hx => boundedTo_keeps_wf hx _) (.inl rfl)
  case swapCounter =>
    cases h
    exact submit_ledgerStep fun _ _ hu =>
      State.onCounter_ledgerStep hu (fun _ _ hx => swapCounterStep_wf hx _ _) (.inl rfl)
  case setBounds =>
    cases h
    refine submit_ledgerStep fun _ _ hu => State.onCounter_ledgerStep hu (fun hbad x _ => ?_) (.inl rfl)
    rw [Bool.or_eq_false_iff, decide_eq_false_iff_not] at hbad
    exact setBoundsStep_wf hbad.2 x
  case tendAction => exact execTendAction_ledgerStep h
  case ackNotice =>
    cases h
    exact submit_ledgerStep fun _ _ hu => .same _ (by rw [← hu]; rfl)
  case minuteEvent => exact execMinuteEvent_ledgerStep h
  case supplyReading | wakeEvent =>
    cases h
    split
    · exact .same _ (State.takeReading_ledger (by rfl) _)
    · exact .of_store rfl
  case consoleReset =>
    cases h
    dsimp only
    split
    · exact .same _ (by simp)
    · exact .of_store rfl
  case retentionDoubtful => exact execRetentionDoubtful_ledgerStep h
  case cellReset =>
    cases h
    exact .cleared rfl
  all_goals exact .of_store (exec_keeps_store rfl h)

end Sys2Proof.Machine

/-! The counters of every step: in bounds (O27), and changed only by their requests and tend actions (O28). -/

namespace Sys2Proof.Machine

open Sys2Proof

/-! ### The counters of a CREATE in hand -/

/-- The counters in hand: those of a CREATE, or none. -/
def State.heldCounters (s : State) : List Counter := s.window.work.elim [] Work.counters

/-- The counters in hand are the ones there were, or each is in good order. -/
def State.HeldKept (s t : State) : Prop := t.heldCounters = s.heldCounters ∨ ∀ c ∈ t.heldCounters, c.Wf

theorem State.WorkKept.heldKept {s t : State} (h : s.WorkKept t) : s.HeldKept t := by
  rcases h with hsame | hnone
  · exact .inl (by rw [State.heldCounters, hsame, State.heldCounters])
  · exact .inr (by simp [State.heldCounters, hnone])

theorem State.heldKept_of_nil {s t : State} (h : t.heldCounters = []) : s.HeldKept t := .inr (by simp [h])

theorem submit_heldKept {s : State} {bytes : List Byte} {act : Bool → State → State}
    (hact : ∀ woke u, s.HeldKept (act woke u)) : s.HeldKept (submit bytes act s) :=
  submit_cases (P := s.HeldKept) (.inl rfl) (.inl rfl) fun _ woke => hact woke _

theorem State.onRecord_heldKept {s u : State} {bad : Bool} {key : Half} {act : Entry → State}
    (hact : ∀ e, s.HeldKept (act e)) : s.HeldKept (u.onRecord bad key act) :=
  State.onRecord_cases (fun _ => .inr (by rintro _ ⟨⟩)) (fun _ _ => .inr (by rintro _ ⟨⟩)) fun _ e _ => hact e

/-- The counters CREATE forms once its checks have passed are in good order (R7, R8). -/
theorem createChecks_counters_wf {st : Store} {key length : Half} {count : Byte} {specs : List CounterSpec}
    (h : firstFailing (createChecks st key length count specs) = none) :
    ∀ c ∈ (specs.take count.toNat).map counterOf, c.Wf := by
  rw [firstFailing_none] at h
  have hbounds := h ((specs.take count.toNat).any fun c => decide (c.ceiling.toInt < c.floor.toInt), .range)
    (by simp [createChecks])
  rw [List.any_eq_false] at hbounds
  rw [List.forall_mem_map]
  exact fun spec hspec => counterOf_wf (by simpa using hbounds spec hspec)

/-- Every command leaves the counters in hand, drops them, or takes in hand those of a CREATE past its checks. -/
theorem exec_heldKept {c : Instr} {s t : State} (h : exec c s = .next t) : s.HeldKept t := by
  cases c
  case create =>
    cases h
    refine submit_heldKept fun _ u => ?_
    split
    · exact State.heldKept_of_nil rfl
    · exact .inr (createChecks_counters_wf ‹_›)
  case retire | closeChange =>
    cases h
    refine submit_heldKept fun _ u => State.onRecord_heldKept fun e => ?_
    split <;> exact State.heldKept_of_nil rfl
  case openChange =>
    cases h
    refine submit_heldKept fun _ u => ?_
    repeat' split
    all_goals exact State.heldKept_of_nil rfl
  case readPiece =>
    cases h
    refine submit_heldKept fun _ u => State.onRecord_heldKept fun e => ?_
    repeat' split
    all_goals exact State.heldKept_of_nil rfl
  case verification =>
    cases h
    split
    · split
      · exact State.heldKept_of_nil rfl
      · exact .inl rfl
    · split
      · exact State.heldKept_of_nil rfl
      · exact .inl rfl
    · exact .inl rfl
  case closeAll | quiesce =>
    cases h
    refine submit_heldKept fun _ u => ?_
    split <;> exact State.heldKept_of_nil rfl
  all_goals exact (exec_keeps_work rfl h).heldKept

/-! ### Every counter within its bounds (R43) -/

/-- Every counter of the catalog is in good order (R43). -/
def Store.CountersWf (st : Store) : Prop := ∀ e ∈ st.catalog, ∀ c ∈ e.counters, c.Wf

theorem State.countersWf_iff {s : State} : s.CountersWf ↔ s.store.CountersWf ∧ ∀ c ∈ s.heldCounters, c.Wf := by
  unfold State.CountersWf Store.CountersWf State.heldCounters
  cases s.window.work <;> simp

theorem Store.countersWf_iff_ledger {st : Store} : st.CountersWf ↔ ∀ p ∈ st.ledger, ∀ c ∈ p.2, c.Wf := by
  simp only [Store.CountersWf, Store.ledger, List.forall_mem_map]

/-- A counter of the catalog replaced by one in good order. -/
theorem Store.withCounter_countersWf {st : Store} (h : st.CountersWf) (key index : Nat) {new : Counter} (hnew : new.Wf) :
    (st.withCounter key index new).CountersWf := by
  intro x hx c hc
  obtain ⟨e, he, rfl⟩ := Store.mem_update.1 hx
  split at hc
  · rcases List.mem_or_eq_of_mem_set hc with hc | rfl
    · exact h e he c hc
    · exact hnew
  · exact h e he c hc

theorem Store.counterAt_wf {st : Store} (h : st.CountersWf) {key index : Nat} {c : Counter}
    (hc : st.counterAt key index = some c) : c.Wf := by
  obtain ⟨e, hfind, hget⟩ := Store.counterAt_eq_some.1 hc
  exact h e (Store.find_some hfind).1 c (List.mem_of_getElem? hget)

/-- A fall of the keep supply leaves no counter out of bounds (log 15). -/
theorem Store.faults_countersWf {st : Store} (h : st.CountersWf) (busy : Bool) (faults : List RetentionFault) :
    (faults.foldl (Store.fault busy) st).CountersWf := by
  induction faults generalizing st with
  | nil => exact h
  | cons f rest ih =>
    refine ih ?_
    rcases Store.fault_cases busy st f with ⟨a, v, _, hf⟩ | hf | ⟨_, f, _, hf⟩ <;> rw [hf]
    · exact h
    · exact h
    · intro x hx
      obtain ⟨e, he, rfl | ⟨_, hcan, rfl⟩⟩ := Store.mem_faultEntry hx
      · exact h x he
      · obtain ⟨-, -, -, -, -, -, hbounds⟩ := Entry.canFault_iff.1 hcan
        rw [Entry.faulted_counters, List.forall_mem_map]
        exact fun c hc => counterLeft_wf (hbounds c hc)

theorem LedgerStep.countersWf {s t : State} {c : Instr} (h : LedgerStep s t c) (hs : s.CountersWf) :
    t.store.CountersWf := by
  obtain ⟨hstore, hheld⟩ := State.countersWf_iff.1 hs
  cases h with
  | same c hledger => rwa [Store.countersWf_iff_ledger, hledger, ← Store.countersWf_iff_ledger]
  | entered key length blocks check counters hin hcat =>
    intro e he
    rcases mem_insertEntry.1 (hcat ▸ he) with rfl | he
    · simpa [State.heldCounters, hin, Work.counters, newEntry] using hheld
    · exact hstore e he
  | retired key hcat => exact fun e he => hstore e (List.mem_of_mem_filter (hcat ▸ he))
  | replaced c key index old new hold hnew _ hcat =>
    have hwf := Store.withCounter_countersWf hstore key index (hnew (Store.counterAt_wf hstore hold))
    exact fun e he => hwf e (hcat ▸ he)
  | faulted faults busy hcat => exact fun e he => Store.faults_countersWf hstore busy faults e (hcat ▸ he)
  | cleared hcat => simp [Store.CountersWf, hcat]

/-- Every command keeps every counter within its bounds. -/
theorem exec_keeps_countersWf {c : Instr} {s t : State} (hs : s.CountersWf) (h : exec c s = .next t) : t.CountersWf := by
  refine State.countersWf_iff.2 ⟨(exec_ledgerStep h).countersWf hs, ?_⟩
  rcases exec_heldKept h with hsame | hwf
  · rw [hsame]
    exact (State.countersWf_iff.1 hs).2
  · exact hwf

/-- Settles O27: every command's effect on the counters is one of `LedgerStep`'s, and the counters a CREATE takes in hand
have passed its checks. -/
theorem countersWfKept : Obligations.CountersWfKept := fun _ _ hs h =>
  step_keeps (P := State.CountersWf) (fun _ _ => id) (fun _ _ _ => exec_keeps_countersWf) hs h

/-! ### Which commands change a counter (R45, R180) -/

theorem Instr.writesCounter_cases {c : Instr} (h : Instr.writesCounter c = true) :
    c = .tendAction ∨ (∃ key index v, c = .adjustCounter key index v) ∨ (∃ key index v, c = .setCounter key index v) ∨
      (∃ key index v w, c = .swapCounter key index v w) ∨ ∃ key index v w, c = .setBounds key index v w := by
  cases c
  case tendAction => exact .inl rfl
  case adjustCounter => exact .inr (.inl ⟨_, _, _, rfl⟩)
  case setCounter => exact .inr (.inr (.inl ⟨_, _, _, rfl⟩))
  case swapCounter => exact .inr (.inr (.inr (.inl ⟨_, _, _, _, rfl⟩)))
  case setBounds => exact .inr (.inr (.inr (.inr ⟨_, _, _, _, rfl⟩)))
  all_goals cases h

/-- After a command the record of an entry stands in the store with as many counters, and with the same ones where the
command writes none and no fall changed an entry (log 15). -/
def Store.KeepsCounters (st : Store) (c : Instr) (e : Entry) : Prop :=
  ∃ e' ∈ st.catalog, e'.key = e.key ∧ e'.counters.length = e.counters.length ∧
    (Instr.writesCounter c = false →
      (∀ faults f, c = .retentionDoubtful faults → RetentionFault.entry f ∉ faults) → e'.counters = e.counters)

theorem Store.keepsCounters_of_mem {st : Store} {e : Entry} (he : e ∈ st.catalog) (c : Instr) : st.KeepsCounters c e :=
  ⟨e, he, rfl, rfl, fun _ _ => rfl⟩

theorem LedgerStep.keepsCounters {s t : State} {c : Instr} (h : LedgerStep s t c) (hs : s.store.Wf) {e : Entry}
    (he : e ∈ s.store.catalog) (hretire : ∀ key, c = .retire key → e.key ≠ key.toNat) (hreset : c ≠ .cellReset) :
    t.store.KeepsCounters c e := by
  cases h with
  | same c hledger =>
    have hmem := Store.mem_ledger.2 ⟨e, he, rfl⟩
    rw [← hledger] at hmem
    obtain ⟨e', he', heq⟩ := Store.mem_ledger.1 hmem
    obtain ⟨hkey, hcounters⟩ := Prod.mk.inj heq
    exact ⟨e', he', hkey, by rw [hcounters], fun _ _ => hcounters⟩
  | entered key length blocks check counters _ hcat =>
    exact Store.keepsCounters_of_mem (hcat ▸ mem_insertEntry.2 (.inr he)) _
  | retired key hcat =>
    exact Store.keepsCounters_of_mem (hcat ▸ List.mem_filter.2 ⟨he, by simpa using hretire key rfl⟩) _
  | replaced c key index old new hold _ hwrites hcat =>
    rcases hwrites with hwrites | rfl
    · have hkeeps := Entry.underKey_keeps (key := key) (fun e => e.setCounter_keeps index new) e
      exact ⟨_, hcat ▸ List.mem_map_of_mem he, hkeeps.key, hkeeps.counters, fun hnot => by simp [hwrites] at hnot⟩
    · rw [Store.withCounter_self hs hold] at hcat
      exact Store.keepsCounters_of_mem (hcat ▸ he) _
  | faulted faults busy hcat =>
    by_cases hentry : ∃ f, RetentionFault.entry f ∈ faults
    · obtain ⟨f, hf⟩ := hentry
      obtain ⟨e', he', hkey, hcount⟩ := Store.faults_record (busy := busy) (faults := faults) he
      exact ⟨e', hcat ▸ he', hkey, hcount, fun _ hno => absurd hf (hno faults f rfl)⟩
    · exact Store.keepsCounters_of_mem (hcat ▸ Store.faults_other busy he fun f hf => absurd ⟨f, hf⟩ hentry) _
  | cleared => exact absurd rfl hreset

/-- Settles O28, by what a command can do to the counters of a record that stays. -/
theorem countersChangeOnlyByTheirRequests : Obligations.CountersChangeOnlyByTheirRequests := by
  intro c s t hs h hreset e he hretire
  obtain ⟨e', he', hkey, hcount, hsame⟩ := (exec_ledgerStep h).keepsCounters hs.1 he hretire hreset
  refine ⟨e', he', hkey, hcount, fun htend hadjust hset hswap hbounds hfall => hsame ?_ hfall⟩
  rw [← Bool.not_eq_true]
  intro hwrites
  obtain rfl | ⟨key, index, v, rfl⟩ | ⟨key, index, v, rfl⟩ | ⟨key, index, v, w, rfl⟩ | ⟨key, index, v, w, rfl⟩ :=
    Instr.writesCounter_cases hwrites
  · exact htend rfl
  · exact hadjust key index v rfl
  · exact hset key index v rfl
  · exact hswap key index v w rfl
  · exact hbounds key index v w rfl

end Sys2Proof.Machine

/-! The conversion of wall dates and wall seconds (O29). -/

namespace Sys2Proof.Machine

open Sys2Proof

/-! ### Months of a year (section 4.3) -/

/-- The days of a year (section 4.3). -/
def yearLength (leap : Bool) : Nat := if leap then 366 else 365

/-- The two tables of section 4.3 agree: the days before a month are those of the months before it. -/
theorem daysBefore_eq_sum (leap : Bool) {month : Nat} (h : month ≤ 12) :
    daysBefore leap month = ((List.range (month - 1)).map fun m => daysIn leap (m + 1)).sum := by
  have htable : ∀ leap, ∀ month < 13,
      daysBefore leap month = ((List.range (month - 1)).map fun m => daysIn leap (m + 1)).sum := by decide
  exact htable leap month (by omega)

theorem daysBefore_succ (leap : Bool) {month : Nat} (h1 : 1 ≤ month) (h : month < 12) :
    daysBefore leap (month + 1) = daysBefore leap month + daysIn leap month := by
  have htable : ∀ leap, ∀ m < 11, daysBefore leap (m + 2) = daysBefore leap (m + 1) + daysIn leap (m + 1) := by decide
  obtain ⟨m, rfl⟩ := Nat.exists_eq_add_of_le' h1
  exact htable leap m (by omega)

theorem daysBefore_december (leap : Bool) : daysBefore leap 12 + daysIn leap 12 = yearLength leap := by
  cases leap <;> rfl

/-- A day of the year lies in a month. -/
abbrev InMonth (leap : Bool) (month dayOfYear : Nat) : Prop :=
  1 ≤ month ∧ month ≤ 12 ∧ daysBefore leap month ≤ dayOfYear ∧ dayOfYear < daysBefore leap month + daysIn leap month

/-- Every day before the end of a month lies in that month or in one before it. -/
theorem exists_inMonth_of_lt (leap : Bool) {dayOfYear : Nat} :
    ∀ month, month < 12 → dayOfYear < daysBefore leap (month + 1) + daysIn leap (month + 1) →
      ∃ m, InMonth leap m dayOfYear
  | 0, _, h => ⟨1, by decide, by decide, by cases leap <;> exact Nat.zero_le _, h⟩
  | month + 1, hmonth, h => by
    by_cases hlt : dayOfYear < daysBefore leap (month + 1 + 1)
    · rw [daysBefore_succ leap (by omega) (by omega)] at hlt
      exact exists_inMonth_of_lt leap month (by omega) hlt
    · exact ⟨month + 1 + 1, by omega, by omega, by omega, h⟩

theorem exists_inMonth (leap : Bool) {dayOfYear : Nat} (h : dayOfYear < yearLength leap) :
    ∃ m, InMonth leap m dayOfYear :=
  exists_inMonth_of_lt leap 11 (by decide) (by rwa [daysBefore_december])

/-- A month ends before the later ones begin. -/
theorem daysBefore_add_daysIn_le (leap : Bool) {month later : Nat} (h1 : 1 ≤ month) (h : month < later)
    (h12 : later ≤ 12) : daysBefore leap month + daysIn leap month ≤ daysBefore leap later := by
  induction later, h using Nat.le_induction with
  | base => exact (daysBefore_succ leap h1 h12).ge
  | succ later hlater ih =>
    rw [daysBefore_succ leap (by omega) h12]
    exact (ih (by omega)).trans (Nat.le_add_right _ _)

theorem daysBefore_mono (leap : Bool) {earlier month : Nat} (h1 : 1 ≤ earlier) (h : earlier ≤ month)
    (h12 : month ≤ 12) : daysBefore leap earlier ≤ daysBefore leap month := by
  rcases h.eq_or_lt with rfl | hlt
  · exact Nat.le_refl _
  · exact (Nat.le_add_right _ _).trans (daysBefore_add_daysIn_le leap h1 hlt h12)

theorem InMonth.lt_yearLength {leap : Bool} {month dayOfYear : Nat} (h : InMonth leap month dayOfYear) :
    dayOfYear < yearLength leap := by
  obtain ⟨h1, h12, -, hto⟩ := h
  rw [← daysBefore_december]
  rcases h12.eq_or_lt with rfl | hlt
  · exact hto
  · have := daysBefore_add_daysIn_le leap h1 hlt (Nat.le_refl 12)
    omega

/-- R63 finds the month in which a day of the year lies: its own first and those before it are at or below the day. -/
theorem monthOf_eq {leap : Bool} {month dayOfYear : Nat} (h : InMonth leap month dayOfYear) :
    monthOf leap dayOfYear = month := by
  obtain ⟨h1, h12, hfrom, hto⟩ := h
  have hbelow : ∀ m ∈ List.range 12, decide (daysBefore leap (m + 1) ≤ dayOfYear) = decide (m < month) := by
    intro m hm
    rw [List.mem_range] at hm
    rw [decide_eq_decide]
    constructor
    · intro hle
      by_contra hge
      have := daysBefore_add_daysIn_le leap (later := m + 1) h1 (by omega) (by omega)
      omega
    · intro hlt
      have := daysBefore_mono leap (earlier := m + 1) (by omega) (by omega : m + 1 ≤ month) h12
      omega
  have hcount : ∀ month < 13, ((List.range 12).filter fun m => decide (m < month)).length = month := by decide
  rw [monthOf, List.filter_congr hbelow]
  exact hcount month (by omega)

/-! ### Years (R63, R64) -/

/-- The days before a year, numbered from 2000: 365 for each, and a leap day for each fourth year from 2000 (R64). -/
def daysBeforeYear (n : Nat) : Nat := 365 * n + (n + 3) / 4

theorem leapYear_eq_decide (year : Nat) : leapYear year = decide (year % 4 = 0) := rfl

/-- Each cycle of four years from 2000 has 1,461 days (R63). -/
theorem daysBeforeYear_cycle (q k : Nat) : daysBeforeYear (4 * q + k) = 1461 * q + daysBeforeYear k := by
  unfold daysBeforeYear
  omega

theorem leapYear_cycle (q : Nat) {k : Nat} (hk : k < 4) : leapYear (2000 + 4 * q + k) = decide (k = 0) := by
  rw [leapYear_eq_decide, decide_eq_decide]
  omega

/-- R63 finds the year of a cycle and the day of the year. -/
theorem yearInCycle_eq {k dayOfYear : Nat} (hk : k < 4) (hday : dayOfYear < yearLength (decide (k = 0))) :
    yearInCycle (daysBeforeYear k + dayOfYear) = (k, dayOfYear) := by
  unfold yearInCycle daysBeforeYear
  by_cases h0 : k = 0
  · subst h0
    have : dayOfYear < 366 := hday
    rw [if_pos (by omega)]
    simp
  · have : dayOfYear < 365 := by simpa [yearLength, h0] using hday
    have hleap : (k + 3) / 4 = 1 := by omega
    rw [hleap, if_neg (by omega), Prod.mk.injEq]
    omega

theorem daysBeforeYear_succ {k : Nat} (hk : k < 4) :
    daysBeforeYear (k + 1) = daysBeforeYear k + yearLength (decide (k = 0)) := by
  have htable : ∀ k < 4, daysBeforeYear (k + 1) = daysBeforeYear k + yearLength (decide (k = 0)) := by decide
  exact htable k hk

theorem daysBeforeYear_mono {m n : Nat} (h : m ≤ n) : daysBeforeYear m ≤ daysBeforeYear n := by
  unfold daysBeforeYear
  omega

/-- Every day of a cycle is a day of one of its years. -/
theorem exists_yearInCycle {r : Nat} (h : r < 1461) :
    ∃ k dayOfYear, k < 4 ∧ dayOfYear < yearLength (decide (k = 0)) ∧ r = daysBeforeYear k + dayOfYear := by
  by_cases hr : r < 366
  · exact ⟨0, r, by decide, hr, by simp [daysBeforeYear]⟩
  · refine ⟨1 + (r - 366) / 365, (r - 366) % 365, by omega, ?_, ?_⟩
    · have : ¬ 1 + (r - 366) / 365 = 0 := by omega
      simp only [yearLength, this]
      exact Nat.mod_lt _ (by decide)
    · unfold daysBeforeYear
      omega

/-! ### Wall dates (R63, R64, R72) -/

/-- The date and time of day on a day of the year. -/
def dateOn (year month dayOfYear secondOfDay : Nat) : WallDate :=
  { year := year
    month := month
    day := dayOfYear - daysBefore (leapYear year) month + 1
    hour := secondOfDay / 3600
    minute := secondOfDay % 3600 / 60
    second := secondOfDay % 60 }

/-- The wall second of a year of a cycle, a day of that year and a second of that day. -/
def wallOn (q k dayOfYear secondOfDay : Nat) : Nat :=
  (daysBeforeYear (4 * q + k) + dayOfYear) * 86400 + secondOfDay

/-- A place in wall time: a year of a cycle of four, a day of that year in one of its months, a second of that day. -/
structure OnDay (q k month dayOfYear secondOfDay : Nat) : Prop where
  inCycle : k < 4
  inMonth : InMonth (decide (k = 0)) month dayOfYear
  inDay : secondOfDay < 86400

/-- A day of a year comes before the next year. -/
theorem OnDay.lt_daysBeforeYear {q k month dayOfYear secondOfDay : Nat} (h : OnDay q k month dayOfYear secondOfDay) :
    daysBeforeYear (4 * q + k) + dayOfYear < daysBeforeYear (4 * q + k + 1) := by
  have := h.inMonth.lt_yearLength
  rw [Nat.add_assoc, daysBeforeYear_cycle, daysBeforeYear_cycle, daysBeforeYear_succ h.inCycle]
  omega

/-- Every wall second falls on a day of some year of some cycle. -/
theorem exists_onDay (wall : Nat) :
    ∃ q k month dayOfYear secondOfDay, OnDay q k month dayOfYear secondOfDay ∧
      wall = wallOn q k dayOfYear secondOfDay := by
  obtain ⟨k, dayOfYear, hk, hday, hr⟩ := exists_yearInCycle (r := wall / 86400 % 1461) (by omega)
  obtain ⟨month, hmonth⟩ := exists_inMonth _ hday
  refine ⟨wall / 86400 / 1461, k, month, dayOfYear, wall % 86400, ⟨hk, hmonth, by omega⟩, ?_⟩
  rw [wallOn, daysBeforeYear_cycle, Nat.add_assoc, ← hr]
  omega

/-- The conversion of R63. -/
theorem dateOf_wallOn {q k month dayOfYear secondOfDay : Nat} (h : OnDay q k month dayOfYear secondOfDay) :
    dateOf (wallOn q k dayOfYear secondOfDay) = dateOn (2000 + 4 * q + k) month dayOfYear secondOfDay := by
  have hcycle : daysBeforeYear k + dayOfYear < 1461 := by
    have hnext := h.lt_daysBeforeYear
    rw [Nat.add_assoc, daysBeforeYear_cycle, daysBeforeYear_cycle] at hnext
    have hlast : daysBeforeYear (k + 1) ≤ 1461 := daysBeforeYear_mono h.inCycle
    omega
  obtain ⟨hk, hmonth, hsecond⟩ := h
  have hindex : wallOn q k dayOfYear secondOfDay / Config.daySeconds = 1461 * q + (daysBeforeYear k + dayOfYear) := by
    simp only [wallOn, Config.daySeconds, daysBeforeYear_cycle]
    omega
  have hofDay : wallOn q k dayOfYear secondOfDay % Config.daySeconds = secondOfDay := by
    simp only [wallOn, Config.daySeconds]
    omega
  have hyear : (1461 * q + (daysBeforeYear k + dayOfYear)) / 1461 = q := by omega
  have hrest : (1461 * q + (daysBeforeYear k + dayOfYear)) % 1461 = daysBeforeYear k + dayOfYear := by omega
  simp only [dateOf, dateOn, hindex, hofDay, hyear, hrest, yearInCycle_eq hk hmonth.lt_yearLength, leapYear_cycle q hk,
    monthOf_eq hmonth]

/-- The conversion of R64. -/
theorem wallOf_dateOn {q k month dayOfYear secondOfDay : Nat} (h : OnDay q k month dayOfYear secondOfDay) :
    wallOf (dateOn (2000 + 4 * q + k) month dayOfYear secondOfDay) = wallOn q k dayOfYear secondOfDay := by
  obtain ⟨hk, ⟨-, -, hfrom, -⟩, hsecond⟩ := h
  have hyear : 2000 + 4 * q + k - 2000 = 4 * q + k := by omega
  simp only [wallOf, dateOn, wallOn, daysBeforeYear, Config.daySeconds, hyear, leapYear_cycle q hk]
  omega

/-- A date is valid when each of its fields lies in its range (R72). -/
theorem badDateField_eq_none {d : WallDate} :
    badDateField d = none ↔
      (2000 ≤ d.year ∧ d.year ≤ 2099) ∧ (1 ≤ d.month ∧ d.month ≤ 12) ∧
        (1 ≤ d.day ∧ d.day ≤ daysIn (leapYear d.year) d.month) ∧ d.hour ≤ 23 ∧ d.minute ≤ 59 ∧ d.second ≤ 59 := by
  unfold badDateField
  repeat' split
  all_goals simp; omega

/-- Every wall second is that of a valid date, up to the end of the range (R60, R63). -/
theorem badDateField_dateOn {q k month dayOfYear secondOfDay : Nat} (h : OnDay q k month dayOfYear secondOfDay)
    (hyear : 4 * q + k < 100) : badDateField (dateOn (2000 + 4 * q + k) month dayOfYear secondOfDay) = none := by
  obtain ⟨hk, ⟨h1, h12, hfrom, hto⟩, hsecond⟩ := h
  rw [badDateField_eq_none]
  simp only [dateOn, leapYear_cycle q hk]
  omega

/-- The range holds the years 2000 to 2099 (R60). -/
theorem wallOn_le_topWall {q k month dayOfYear secondOfDay : Nat} (h : OnDay q k month dayOfYear secondOfDay) :
    wallOn q k dayOfYear secondOfDay ≤ 3155759999 ↔ 4 * q + k < 100 := by
  have hnext := h.lt_daysBeforeYear
  have hsecond := h.inDay
  have hcentury : daysBeforeYear 100 = 36525 := rfl
  unfold wallOn
  constructor
  · intro hle
    by_contra hge
    have := daysBeforeYear_mono (Nat.le_of_not_lt hge)
    omega
  · intro hlt
    have := daysBeforeYear_mono (show 4 * q + k + 1 ≤ 100 from hlt)
    omega

/-- Every valid date and time is one on a day of a year of the range. -/
theorem exists_dateOn {d : WallDate} (h : badDateField d = none) :
    ∃ q k month dayOfYear secondOfDay, OnDay q k month dayOfYear secondOfDay ∧ 4 * q + k < 100 ∧
      d = dateOn (2000 + 4 * q + k) month dayOfYear secondOfDay := by
  obtain ⟨⟨hfrom, hto⟩, ⟨h1, h12⟩, ⟨hday1, hday⟩, hhour, hminute, hsecond⟩ := badDateField_eq_none.1 h
  obtain ⟨year, month, day, hour, minute, second⟩ := d
  dsimp only at *
  have hyear : 2000 + 4 * ((year - 2000) / 4) + (year - 2000) % 4 = year := by omega
  have hk : (year - 2000) % 4 < 4 := Nat.mod_lt _ (by decide)
  have hleap := leapYear_cycle ((year - 2000) / 4) hk
  rw [hyear] at hleap
  rw [hleap] at hday
  refine ⟨(year - 2000) / 4, (year - 2000) % 4, month, daysBefore (decide ((year - 2000) % 4 = 0)) month + (day - 1),
    hour * 3600 + minute * 60 + second, ⟨hk, ⟨h1, h12, by omega, by omega⟩, by omega⟩, by omega, ?_⟩
  rw [hyear, dateOn, hleap, WallDate.mk.injEq]
  omega

/-- A valid date's wall second is in the range, and is taken back to the date (R64). -/
theorem dateOf_wallOf {d : WallDate} (h : badDateField d = none) : wallOf d ≤ 3155759999 ∧ dateOf (wallOf d) = d := by
  obtain ⟨q, k, month, dayOfYear, secondOfDay, hon, hyear, rfl⟩ := exists_dateOn h
  rw [wallOf_dateOn hon]
  exact ⟨(wallOn_le_topWall hon).2 hyear, dateOf_wallOn hon⟩

/-- Every wall second of the range is that of a valid date (R63). -/
theorem wallOf_dateOf {wall : Nat} (h : wall ≤ 3155759999) :
    badDateField (dateOf wall) = none ∧ wallOf (dateOf wall) = wall := by
  obtain ⟨q, k, month, dayOfYear, secondOfDay, hon, rfl⟩ := exists_onDay wall
  rw [dateOf_wallOn hon]
  exact ⟨badDateField_dateOn hon ((wallOn_le_topWall hon).1 h), wallOf_dateOn hon⟩

/-- Settles O29: a date and a wall second name the same day of a year and second of that day. -/
theorem wallDatesConvertBothWays : Obligations.WallDatesConvertBothWays := by
  refine ⟨fun d hfrom hto h1 h12 hday1 hday hhour hminute hsecond => ⟨?_, ?_⟩, fun _ h => wallOf_dateOf h⟩
  · rw [← daysBefore_eq_sum _ h12]
    rfl
  · exact dateOf_wallOf (badDateField_eq_none.2 ⟨⟨hfrom, hto⟩, ⟨h1, h12⟩, ⟨hday1, hday⟩, hhour, hminute, hsecond⟩)

end Sys2Proof.Machine

/-! The calendar: what it derives (O30), its requests (O31), its events (O32), and what every step keeps of it (O33). -/

namespace Sys2Proof.Machine

open Sys2Proof

/-! ### The wall second and the game day (R60, R66 to R69) -/

theorem Calendar.wallSecond_eq {c : Calendar} (h : c.Wf) :
    (c.wallSecond : Int) = min (c.trueSecond + c.wallOffset) 3155759999 := by
  obtain ⟨-, -, -, -, -, -, hpos, -⟩ := h
  simp only [Calendar.wallSecond, Config.topWall]
  omega

theorem Calendar.gameDay_eq (c : Calendar) :
    c.gameDay = ((c.wallSecond : Int) + 86400 - 60 * c.dayTurn) / 86400 := rfl

theorem Calendar.intoDay_eq (c : Calendar) :
    c.intoDay = ((c.wallSecond : Int) + 86400 - 60 * c.dayTurn) % 86400 := rfl

/-- Settles O30: a game day begins at the wall second R66 divides at, which lies in the range. -/
theorem gameDayAndWeekday : Obligations.GameDayAndWeekday := by
  intro c h _
  have hwall := Calendar.wallSecond_eq h
  obtain ⟨-, -, hturn, -⟩ := h
  refine ⟨hwall, ?_, ?_, ?_, ?_, ?_, rfl, ?_⟩
  all_goals simp only [weekday, Calendar.gameDay_eq, Calendar.intoDay_eq]; omega

/-! ### The calendar's requests (R70 to R73, R76, R77) -/

@[simp] theorem State.serving_calendar (c : Instr) (s : State) : (s.serving c).calendar = s.calendar := by
  simp [State.serving]

/-- Once SET to a target of the range, the wall second is the target (R73). -/
theorem Calendar.setWall_wallSecond (c : Calendar) {target : Nat} (h : target ≤ 3155759999) :
    (c.setWall target).wallSecond = target := by
  simp only [Calendar.wallSecond, Calendar.setWall, Config.topWall]
  omega

/-- The data of READ-CLOCK by the calendar state (R70, R71). -/
theorem Calendar.clockData_eq (c : Calendar) {d : WallDate} (hd : d = dateOf c.wallSecond) :
    c.clockData =
      nat4 c.trueSecond ++
        (if c.state = .unset then [0] ++ nat2 c.dayTurn ++ List.replicate 21 0
         else
          [1] ++ nat2 c.dayTurn ++ [flag1 c.endMark] ++ nat4 c.wallSecond ++ nat2 d.year ++
            [nat1 d.month, nat1 d.day, nat1 d.hour, nat1 d.minute, nat1 d.second,
              BitVec.ofInt 8 ((c.gameDay + 4) % 7)] ++ int4 c.gameDay ++ int4 c.intoDay) := by
  subst hd
  unfold Calendar.clockData
  cases c.state <;> simp [CalendarState.code, weekday]

/-- SET-WALL with an invalid field is refused with its position (R72). -/
theorem setWall_refused {s : State} (h : s.Accepts) {year : Half} {month day hour minute second : Byte} {position : Nat}
    (hbad : badDateField ⟨year.toNat, month.toNat, day.toNat, hour.toNat, minute.toNat, second.toNat⟩ = some position) :
    Answers (.setWall year month day hour minute second) s .range [nat1 position] := by
  rw [Answers, ServedAs, exec_served h rfl]
  simp only [hbad]

/-- The calendar state and the game day before a SET-WALL, as its answer gives them (R76). -/
theorem Calendar.code_append_answeredDay (c : Calendar) :
    [c.state.code] ++ int4 c.answeredDay =
      if c.state = .unset then [0] ++ int4 0 else [1] ++ int4 c.gameDay := by
  unfold Calendar.answeredDay
  cases c.state <;> rfl

/-- SET-WALL with a valid date (R73, R76). -/
theorem setWall_served {s : State} (h : s.Accepts) {year : Half} {month day hour minute second : Byte} {target : Nat}
    (htarget : target = wallOf ⟨year.toNat, month.toNat, day.toNat, hour.toNat, minute.toNat, second.toNat⟩)
    (hgood : badDateField ⟨year.toNat, month.toNat, day.toNat, hour.toNat, minute.toNat, second.toNat⟩ = none) :
    ServedAs (.setWall year month day hour minute second) s fun u =>
      { u with calendar := u.calendar.setWall target }.evaluate.answer .ok
        (nat4 u.calendar.trueSecond ++
          (if u.calendar.state = CalendarState.unset then [0] ++ int4 0 else [1] ++ int4 u.calendar.gameDay) ++
          nat4 target ++ int4 (((target : Int) + 86400 - 60 * u.calendar.dayTurn) / 86400)) := by
  have hrange : target ≤ 3155759999 := htarget ▸ (dateOf_wallOf hgood).1
  rw [ServedAs, exec_served h rfl]
  simp only [hgood, ← htarget, Calendar.gameDay_eq (Calendar.setWall _ _), Calendar.setWall_wallSecond _ hrange,
    ← Calendar.code_append_answeredDay, List.append_assoc]
  rfl

/-- The game days before and after a SET-DAY-TURN, as its answer gives them (R76, R77). -/
theorem Calendar.answeredDay_append (c : Calendar) (turn : Nat) :
    int4 c.answeredDay ++ int4 { c with dayTurn := turn }.answeredDay =
      if c.state = .unset then int4 0 ++ int4 0
      else int4 c.gameDay ++ int4 (((c.wallSecond : Int) + 86400 - 60 * turn) / 86400) := by
  unfold Calendar.answeredDay
  cases c.state <;> rfl

/-- Settles O31: each request answers in the state in which it is served; R72's checks are those of `badDateField`. -/
theorem calendarRequests : Obligations.CalendarRequests := by
  refine ⟨fun s d h hd => ?_, fun year month day hour minute second s target h htarget => ?_, fun turn s h => ?_⟩
  · rw [Answers, ServedAs, exec_served h rfl, ← Calendar.clockData_eq _ hd, State.serving_calendar]
  · split_ifs
    case neg => exact setWall_served h htarget (by simp only [badDateField, leapYear_eq_decide, if_false, *])
    all_goals exact setWall_refused h (by simp only [badDateField, leapYear_eq_decide, if_pos, if_false, *])
  · have hserved := exec_served (c := .setDayTurn turn) h rfl
    split_ifs with hturn
    · rw [Answers, ServedAs, hserved, if_pos hturn]
    · rw [ServedAs, hserved, if_neg hturn]
      simp only [← Calendar.answeredDay_append, List.append_assoc]

/-! ### Second events and minute events (R58, R61, R91, R175) -/

theorem State.mainUp_eq_true {s : State} (h : s.power.main ≠ .off) : s.mainUp = true := by simp [State.mainUp, h]

theorem State.mainUp_eq_false {s : State} (h : s.power.main = .off) : s.mainUp = false := by simp [State.mainUp, h]

/-- A second event of a running keep domain (R58, R91). -/
theorem execSecondEvent_eq {s : State} (hruns : s.power.keepRuns = true) :
    exec .secondEvent s =
      .next (if s.power.main = .off then { s with calendar := s.calendar.tick }
        else { s with calendar := s.calendar.tick }.evaluate) := by
  show execSecondEvent s = _
  unfold execSecondEvent
  rw [if_pos hruns]
  by_cases hoff : s.power.main = .off
  · rw [if_pos hoff, State.mainUp_eq_false hoff]
    rfl
  · rw [if_neg hoff, State.mainUp_eq_true hoff]
    rfl

/-- The calendar's part of a second event in the numbers of R58 and R61. -/
theorem Calendar.tick_eq (c : Calendar) :
    c.tick =
      { c with
        trueSecond := min 4294967295 (c.trueSecond + 1)
        minutePhase := if c.minutePhase + 1 < 60 then c.minutePhase + 1 else 0
        minutesHanded := if c.minutePhase + 1 < 60 then c.minutesHanded else c.minutesHanded + 1
        endMark :=
          c.endMark ||
            decide (c.state = .set ∧ 3155759999 < (min 4294967295 (c.trueSecond + 1) : Nat) + c.wallOffset) } := by
  simp only [Bool.decide_and]
  rfl

/-- A minute event handed on is taken (R91, R175; log 10, log 17). -/
theorem execMinuteEvent_eq {s t : State} {n : Nat} (hruns : s.power.keepRuns = true)
    (hhanded : s.calendar.minutesHanded = n + 1)
    (ht : t = { s with calendar := { s.calendar with minutesHanded := n, minuteReadingTaken := false } })
    (reading : Reading) :
    exec (.minuteEvent reading) s =
      .next (if s.power.main = .off then
          if s.calendar.minuteReadingTaken then t.evaluate else t.evaluate.takeReading reading
        else t) := by
  subst ht
  show execMinuteEvent reading s = _
  unfold execMinuteEvent
  by_cases hoff : s.power.main = .off
  · simp [State.mainUp, hruns, hhanded, hoff]
  · simp [State.mainUp, hruns, hhanded, hoff]

theorem execSupplyReading_eq {s : State} (hruns : s.power.keepRuns = true) (reading : Reading) :
    exec (.supplyReading reading) s = .next (s.takeReading reading) := by
  show execSupplyReading reading s = _
  unfold execSupplyReading
  rw [if_pos hruns]

/-- Settles O32: what a second event and a minute event handed on make of the calendar, and what follows them. -/
theorem secondAndMinuteEvents : Obligations.SecondAndMinuteEvents := by
  refine ⟨?_, ?_⟩
  · rintro s _ hruns rfl
    rw [execSecondEvent_eq hruns, Calendar.tick_eq]
  · intro s t reading n hruns hhanded ht
    have hkeep : t.evaluate.power.keepRuns = true := by rw [ht]; exact hruns
    rw [execMinuteEvent_eq hruns hhanded ht]
    refine ⟨fun hup => ?_, fun hoff htaken => ?_, fun hoff htaken => ?_⟩
    · rw [if_neg hup]
    · rw [if_pos hoff, if_pos htaken]
    · rw [if_pos hoff, if_neg (by simp [htaken]), execSupplyReading_eq hkeep]

/-! ### What every step keeps of the calendar (R58 to R61, R65) -/

theorem Calendar.reset_wf : Calendar.reset.Wf := by decide

/-- A second event keeps the calendar in range: T rises with the minute phase, and the end mark is set on passing the
top (R58, R61). -/
theorem Calendar.tick_wf {c : Calendar} (h : c.Wf) : c.tick.Wf := by
  obtain ⟨hsecond, hphase, hturn, hminute, hunset, hoffset, hpos, hmark⟩ := h
  simp only [Config.maxSecond, Config.topWall] at hsecond hminute hoffset hmark
  rw [Calendar.tick_eq]
  refine ⟨?_, ?_, hturn, ?_, hunset, hoffset, ?_, ?_⟩
  · exact Nat.min_le_left _ _
  · dsimp only
    split <;> omega
  · simp only [Config.maxSecond]
    split <;> omega
  · dsimp only
    omega
  · simp only [Bool.or_eq_true, decide_eq_true_eq, hmark, Config.topWall]
    constructor
    · rintro (⟨hset, habove⟩ | habove)
      · exact ⟨hset, by omega⟩
      · exact habove
    · exact .inr

/-- A SET-WALL to a target of the range leaves T + W at the target, not above the top (R73). -/
theorem Calendar.setWall_wf {c : Calendar} (h : c.Wf) {target : Nat} (htarget : target ≤ 3155759999) :
    (c.setWall target).Wf := by
  obtain ⟨hsecond, hphase, hturn, hminute, -, -, -, -⟩ := h
  refine ⟨hsecond, hphase, hturn, hminute, nofun, ?_, ?_, ?_⟩
  · simp only [Calendar.setWall, Config.topWall]
    omega
  · simp only [Calendar.setWall]
    omega
  · refine iff_of_false Bool.false_ne_true ?_
    rintro ⟨-, habove⟩
    simp only [Calendar.setWall, Config.topWall] at habove
    omega

theorem Calendar.setDayTurn_wf {c : Calendar} (h : c.Wf) {turn : Nat} (hturn : turn ≤ 1439) :
    Calendar.Wf { c with dayTurn := turn } := by
  obtain ⟨hsecond, hphase, -, hrest⟩ := h
  exact ⟨hsecond, hphase, hturn, hrest⟩

/-- Everything a command can do to the calendar. -/
inductive CalendarStep (c : Calendar) : Calendar → Instr → Prop
  /-- Nothing but what minute events hand on (R58, R175). -/
  | same (i : Instr) (handed : Nat) (taken : Bool) :
    CalendarStep c { c with minutesHanded := handed, minuteReadingTaken := taken } i
  /-- A second event (R58). -/
  | tick : CalendarStep c c.tick .secondEvent
  /-- A SET-WALL to a target of the range (R73). -/
  | setWall (year : Half) (month day hour minute second : Byte) (target : Nat) (h : target ≤ 3155759999) :
    CalendarStep c (c.setWall target) (.setWall year month day hour minute second)
  /-- A SET-DAY-TURN (R77). -/
  | setDayTurn (turn : Half) (h : turn.toNat ≤ 1439) :
    CalendarStep c { c with dayTurn := turn.toNat } (.setDayTurn turn)
  /-- A cell reset (R79). -/
  | reset : CalendarStep c .reset .cellReset

theorem CalendarStep.of_eq {c c' : Calendar} (h : c' = c) (i : Instr) : CalendarStep c c' i := h ▸ .same i _ _

@[simp] theorem State.takeReading_calendar (s : State) (r : Reading) : (s.takeReading r).calendar = s.calendar := by
  rcases s.takeReading_cases r with ⟨-, -, h⟩ | ⟨-, -, h⟩ | ⟨-, -, h⟩ | ⟨-, -, h⟩ <;> simp [h]

/-- Every command's effect on the calendar is one of `CalendarStep`'s. -/
theorem exec_calendarStep {c : Instr} {s t : State} (h : exec c s = .next t) :
    CalendarStep s.calendar t.calendar c := by
  cases c
  case setWall year month day hour minute second =>
    cases h
    refine submit_cases (P := fun t => CalendarStep s.calendar t.calendar (.setWall year month day hour minute second))
      (.of_eq rfl _) (.of_eq rfl _) fun _ _ => ?_
    dsimp only
    split
    · exact .of_eq (by simp) _
    · simpa using CalendarStep.setWall year month day hour minute second _ (dateOf_wallOf ‹_›).1
  case setDayTurn turn =>
    cases h
    refine submit_cases (P := fun t => CalendarStep s.calendar t.calendar (.setDayTurn turn))
      (.of_eq rfl _) (.of_eq rfl _) fun _ _ => ?_
    dsimp only
    split
    · exact .of_eq (by simp) _
    · simpa using CalendarStep.setDayTurn (c := s.calendar) turn (Nat.le_of_not_lt ‹_›)
  case secondEvent =>
    cases h
    split
    · dsimp only
      split <;> exact .tick
    · exact .of_eq rfl _
  case minuteEvent reading =>
    cases h
    split
    · exact .of_eq rfl _
    · dsimp only
      split
      · exact .same _ _ _
      · split
        · exact .same _ _ _
        · rw [State.takeReading_calendar]
          exact .same _ _ _
  case wakeEvent reading =>
    cases h
    split
    · rw [State.takeReading_calendar]
      exact .same _ _ _
    · exact .of_eq rfl _
  case cellReset =>
    cases h
    exact .reset
  all_goals exact .of_eq (exec_keeps_calendar rfl h) _

theorem CalendarStep.wf {c c' : Calendar} {i : Instr} (h : CalendarStep c c' i) (hc : c.Wf) : c'.Wf := by
  cases h with
  | same => exact hc
  | tick => exact Calendar.tick_wf hc
  | setWall _ _ _ _ _ _ _ htarget => exact Calendar.setWall_wf hc htarget
  | setDayTurn _ hturn => exact Calendar.setDayTurn_wf hc hturn
  | reset => exact Calendar.reset_wf

/-- Settles O33: every command's effect on the calendar is one of `CalendarStep`'s. -/
theorem calendarKept : Obligations.CalendarKept := by
  refine ⟨fun s t hs h => ?_, fun c s t h hreset hmax => ?_⟩
  · exact step_keeps (P := fun s => s.calendar.Wf) (fun _ _ => id) (fun _ _ _ hs h => (exec_calendarStep h).wf hs) hs h
  · have hstep := exec_calendarStep h
    generalize t.calendar = c' at hstep ⊢
    cases hstep with
    | same => exact ⟨Nat.le_refl _, fun _ => ⟨rfl, rfl⟩, fun _ => rfl, id⟩
    | tick =>
      rw [Calendar.tick_eq]
      exact ⟨Nat.le_min.2 ⟨hmax, Nat.le_succ _⟩, fun _ => ⟨rfl, rfl⟩, fun _ => rfl, id⟩
    | setWall =>
      exact ⟨Nat.le_refl _, fun hno => absurd rfl (hno _ _ _ _ _ _), fun _ => rfl, fun _ => rfl⟩
    | setDayTurn => exact ⟨Nat.le_refl _, fun _ => ⟨rfl, rfl⟩, fun hno => absurd rfl (hno _), id⟩
    | reset => exact absurd rfl hreset

end Sys2Proof.Machine

/-! The occurrences an evaluation counts (O36), and what it makes of the whole table (O37). -/

namespace Sys2Proof.Machine

open Sys2Proof

/-! ### Days served (R94) -/

/-- As many days after one and up to another lie a whole number of periods after the anchor as the floors of R94 differ
by. -/
theorem card_days_served {period : Nat} (hperiod : 1 ≤ period) (anchor lastServed day : Int) :
    ((Finset.Ioc lastServed day).filter fun d => (period : Int) ∣ d - anchor).card =
      ((day - anchor) / (period : Int) - (lastServed - anchor) / (period : Int)).toNat := by
  have hcard := Int.Ioc_filter_modEq_card lastServed day (r := (period : Int)) (by omega) anchor
  have hfloor (z : Int) : ⌊((z : ℚ) - (anchor : ℚ)) / ((period : Int) : ℚ)⌋ = (z - anchor) / (period : Int) := by
    rw [← Int.cast_sub, Int.cast_natCast, Rat.floor_intCast_div_natCast]
  have hdvd (d : Int) : d ≡ anchor [ZMOD (period : Int)] ↔ (period : Int) ∣ d - anchor := by
    rw [Int.modEq_comm, Int.modEq_iff_dvd]
  simp only [hfloor, hdvd] at hcard
  omega

/-- The last day up to a given one that lies a whole number of periods after the anchor. -/
def lastDueDay (anchor : Int) (period : Nat) (day : Int) : Int := anchor + period * ((day - anchor) / (period : Int))

theorem dvd_lastDueDay_sub (anchor : Int) (period : Nat) (day : Int) :
    (period : Int) ∣ lastDueDay anchor period day - anchor := by
  simp [lastDueDay]

theorem lastDueDay_le {period : Nat} (hperiod : 1 ≤ period) (anchor day : Int) :
    lastDueDay anchor period day ≤ day := by
  have := Int.mul_ediv_self_le (x := day - anchor) (k := (period : Int)) (by omega)
  unfold lastDueDay
  omega

/-- No day after it and up to the given one lies a whole number of periods after the anchor. -/
theorem not_dvd_of_lastDueDay_lt {anchor day d : Int} {period : Nat} (hperiod : 1 ≤ period)
    (hlt : lastDueDay anchor period day < d) (hle : d ≤ day) : ¬ (period : Int) ∣ d - anchor := by
  rintro ⟨q, hq⟩
  have hpos : (0 : Int) < period := by omega
  have hq_le : q ≤ (day - anchor) / (period : Int) :=
    (Int.le_ediv_iff_mul_le hpos).2 (by rw [Int.mul_comm, ← hq]; omega)
  have := Int.mul_le_mul_of_nonneg_left hq_le hpos.le
  unfold lastDueDay at hlt
  omega

/-- A day a whole number of periods after the anchor is its own last. -/
theorem lastDueDay_eq_self {anchor day : Int} {period : Nat} (h : (period : Int) ∣ day - anchor) :
    lastDueDay anchor period day = day := by
  rw [lastDueDay, Int.mul_ediv_cancel' h]
  omega

theorem lastDueDay_mono {anchor first second : Int} {period : Nat}
    (h : (first - anchor) / (period : Int) ≤ (second - anchor) / (period : Int)) :
    lastDueDay anchor period first ≤ lastDueDay anchor period second := by
  have := Int.mul_le_mul_of_nonneg_left h (Int.natCast_nonneg period)
  unfold lastDueDay
  omega

/-! ### Intervals passed (R93) -/

/-- N raised by the intervals T has passed stands above T by at most an interval. -/
theorem elapsed_next_bounds {second next interval : Nat} (h : next ≤ second) (hinterval : 0 < interval) :
    second < next + ((second - next) / interval + 1) * interval ∧
      next + ((second - next) / interval + 1) * interval ≤ second + interval := by
  have hdiv := Nat.div_add_mod (second - next) interval
  have hmod := Nat.mod_lt (second - next) hinterval
  rw [Nat.add_mul, Nat.one_mul, Nat.mul_comm _ interval]
  omega

/-! ### What a schedule counts (R92 to R95) -/

theorem Schedule.count_elapsed_ahead {now : Moment} {next : Nat} (h : now.second < next) (interval : Nat) :
    (Schedule.elapsed next interval).count now = ⟨0, .elapsed next interval, false⟩ := if_pos h

theorem Schedule.count_elapsed_once {now : Moment} {next : Nat} (h : next ≤ now.second) :
    (Schedule.elapsed next 0).count now = ⟨1, .elapsed next 0, true⟩ := if_neg h.not_gt

theorem Schedule.count_elapsed_repeating {now : Moment} {next interval : Nat} (h : next ≤ now.second)
    (hinterval : 0 < interval) :
    (Schedule.elapsed next interval).count now =
      ⟨(now.second - next) / interval + 1, .elapsed (next + ((now.second - next) / interval + 1) * interval) interval,
        false⟩ :=
  (if_neg h.not_gt).trans (if_neg hinterval.ne')

theorem Schedule.count_daily_unset {now : Moment} (h : now.isSet = false) (anchor : Int) (period : Nat)
    (lastServed : Int) :
    (Schedule.daily anchor period lastServed).count now = ⟨0, .daily anchor period lastServed, false⟩ := by
  simp [Schedule.count, h]

/-- No multiple of the period after the anchor has been passed since the last-served day. -/
theorem Schedule.count_daily_served {now : Moment} {anchor lastServed : Int} {period : Nat}
    (h : (now.day - anchor) / (period : Int) ≤ (lastServed - anchor) / (period : Int)) :
    (Schedule.daily anchor period lastServed).count now = ⟨0, .daily anchor period lastServed, false⟩ := by
  simp [Schedule.count, h.not_gt]

/-- A later multiple of the period after the anchor has been passed than the one last served. -/
theorem Schedule.count_daily_passed {now : Moment} (hset : now.isSet = true) {anchor lastServed : Int} {period : Nat}
    (hperiod : 1 ≤ period) (h : (lastServed - anchor) / (period : Int) < (now.day - anchor) / (period : Int)) :
    (Schedule.daily anchor period lastServed).count now =
      ⟨((now.day - anchor) / (period : Int) - (lastServed - anchor) / (period : Int)).toNat,
        .daily anchor period (lastDueDay anchor period now.day), false⟩ := by
  have hday : ¬ now.day ≤ lastServed := fun hle =>
    h.not_ge (Int.ediv_le_ediv (by omega) (by omega))
  simp [Schedule.count, lastDueDay, hset, hday, h]

/-- A WALL-ONCE event is counted once when S has reached its due wall second (R95). -/
theorem Schedule.count_wallOnce (now : Moment) (due : Nat) :
    (Schedule.wallOnce due).count now =
      if now.isSet = true ∧ due ≤ now.wall then ⟨1, .wallOnce due, true⟩ else ⟨0, .wallOnce due, false⟩ := by
  simp [Schedule.count]

/-- Only an occurrence finishes a schedule. -/
theorem Schedule.count_finishes {now : Moment} {sch : Schedule} (h : (sch.count now).occ = 0) :
    (sch.count now).finishes = false := by
  cases sch with
  | elapsed next interval =>
    by_cases hahead : now.second < next
    · rw [Schedule.count_elapsed_ahead hahead]
    · rcases Nat.eq_zero_or_pos interval with rfl | hpos
      · rw [Schedule.count_elapsed_once (Nat.le_of_not_lt hahead)] at h
        cases h
      · rw [Schedule.count_elapsed_repeating (Nat.le_of_not_lt hahead) hpos]
  | daily anchor period lastServed =>
    unfold Schedule.count
    dsimp only
    repeat' split
    all_goals rfl
  | wallOnce due =>
    rw [Schedule.count_wallOnce] at h ⊢
    split at h
    · cases h
    · exact if_neg ‹_› ▸ rfl

/-! ### One event at an evaluation (R92, R96) -/

section
variable {now : Moment} {e : Event} (h : e.finished = false)
include h

theorem Event.occurrences_unfinished : e.occurrences now = (e.schedule.count now).occ := by
  simp [Event.occurrences, h]

theorem Event.evaluated_schedule : (e.evaluated now).schedule = (e.schedule.count now).schedule := by
  simp only [Event.evaluated, h, Bool.false_eq_true, if_false]
  split <;> rfl

theorem Event.evaluated_finishes : (e.evaluated now).finished = (e.schedule.count now).finishes := by
  simp only [Event.evaluated, h, Bool.false_eq_true, if_false]
  split
  · rw [Schedule.count_finishes ‹_›]
  · rfl

/-- The schedule's count says what an evaluation makes of an event that has not finished. -/
theorem Event.evaluated_of_count {sch : Schedule} {c : Count} (hsch : e.schedule = sch) (hcount : sch.count now = c) :
    e.occurrences now = c.occ ∧ (e.evaluated now).schedule = c.schedule ∧ (e.evaluated now).finished = c.finishes := by
  rw [Event.occurrences_unfinished h, Event.evaluated_schedule h, Event.evaluated_finishes h, hsch, hcount]
  exact ⟨rfl, rfl, rfl⟩

end

/-- With no occurrence, an evaluation keeps everything of an event but its schedule. -/
theorem Event.evaluated_of_no_occurrence {now : Moment} {e : Event} (h : e.occurrences now = 0) :
    e.evaluated now = { e with schedule := (e.evaluated now).schedule } := by
  obtain ⟨hstate, hpending, hfirst, hfinished⟩ := Event.evaluated_quiet h
  rw [Event.mk.injEq]
  exact ⟨Event.evaluated_tag _ _, hstate, rfl, hfinished, hpending, hfirst, Event.evaluated_action _ _,
    Event.evaluated_targetLost _ _⟩

/-! ### The kinds of events -/

section
variable {now : Moment} {e : Event} (h : e.finished = false)
include h

/-- An ELAPSED event that repeats is counted once for every interval T has passed, and N moves above T by at most an
interval (R93). -/
theorem Event.evaluated_elapsed_repeating {next interval : Nat} (hsch : e.schedule = .elapsed next interval)
    (hreached : next ≤ now.second) (hinterval : 0 < interval) :
    ∃ next' : Nat, e.occurrences now = (now.second - next) / interval + 1 ∧
      next' = next + e.occurrences now * interval ∧ now.second < next' ∧ next' ≤ now.second + interval ∧
      (e.evaluated now).schedule = .elapsed next' interval ∧ (e.evaluated now).finished = false := by
  obtain ⟨hocc, hafter, hfinished⟩ := Event.evaluated_of_count h hsch
    (Schedule.count_elapsed_repeating hreached hinterval)
  obtain ⟨habove, hwithin⟩ := elapsed_next_bounds hreached hinterval
  dsimp only at hocc
  exact ⟨_, hocc, rfl, hocc ▸ habove, hocc ▸ hwithin, hocc ▸ hafter, hfinished⟩

/-- A DAILY event is counted once for each day above the last-served one and up to the game day that lies a whole number
of periods after the anchor, and the last-served day moves to the last of them (R94). -/
theorem Event.evaluated_daily {anchor lastServed : Int} {period : Nat}
    (hsch : e.schedule = .daily anchor period lastServed) (hset : now.isSet = true) (hperiod : 1 ≤ period)
    (hdvd : (period : Int) ∣ lastServed - anchor) :
    e.occurrences now = ((Finset.Ioc lastServed now.day).filter fun d => (period : Int) ∣ d - anchor).card ∧
      (e.evaluated now).finished = false ∧
      ∃ served : Int, (e.evaluated now).schedule = .daily anchor period served ∧ lastServed ≤ served ∧
        (period : Int) ∣ served - anchor ∧ served ≤ max lastServed now.day ∧
        ∀ d, served < d → d ≤ now.day → ¬ (period : Int) ∣ d - anchor := by
  have hlast := lastDueDay_eq_self hdvd
  rw [card_days_served hperiod]
  by_cases hpassed : (lastServed - anchor) / (period : Int) < (now.day - anchor) / (period : Int)
  · obtain ⟨hocc, hafter, hfinished⟩ := Event.evaluated_of_count h hsch
      (Schedule.count_daily_passed hset hperiod hpassed)
    have hafter_last := lastDueDay_mono hpassed.le
    have hle := lastDueDay_le hperiod anchor now.day
    exact ⟨hocc, hfinished, lastDueDay anchor period now.day, hafter, by omega, dvd_lastDueDay_sub _ _ _, by omega,
      fun d => not_dvd_of_lastDueDay_lt hperiod⟩
  · have hserved := Int.not_lt.1 hpassed
    obtain ⟨hocc, hafter, hfinished⟩ := Event.evaluated_of_count h hsch (Schedule.count_daily_served hserved)
    have hbefore := lastDueDay_mono hserved
    exact ⟨hocc.trans (Int.toNat_of_nonpos (by omega)).symm, hfinished, lastServed, hafter, Int.le_refl _, hdvd,
      Int.le_max_left _ _, fun d hlt => not_dvd_of_lastDueDay_lt hperiod (by omega)⟩

end

/-- Settles O36: the occurrences of an unfinished event are its schedule's count, kind by kind. -/
theorem occurrencesCounted : Obligations.OccurrencesCounted := by
  refine ⟨fun now e hfin => ⟨by simp [Event.occurrences, hfin], Event.evaluated_finished hfin⟩,
    fun now e next interval hfin hsch => ⟨fun hahead => ?_, fun hreached hzero => ?_, fun hreached hpos => ?_⟩,
    fun now e anchor lastServed period hfin hsch => ⟨fun hunset => ?_, fun hset hperiod _ hdvd => ?_⟩,
    fun now e due hfin hsch => ?_⟩
  · obtain ⟨hocc, hafter, -⟩ := Event.evaluated_of_count hfin hsch (Schedule.count_elapsed_ahead hahead interval)
    exact ⟨hocc, hafter⟩
  · subst hzero
    exact Event.evaluated_of_count hfin hsch (Schedule.count_elapsed_once hreached)
  · exact Event.evaluated_elapsed_repeating hfin hsch hreached hpos
  · obtain ⟨hocc, hafter, -⟩ := Event.evaluated_of_count hfin hsch (Schedule.count_daily_unset hunset _ _ _)
    exact ⟨hocc, hafter⟩
  · exact Event.evaluated_daily hfin hsch hset hperiod hdvd
  · obtain ⟨hocc, hafter, hfinished⟩ := Event.evaluated_of_count hfin hsch (Schedule.count_wallOnce now due)
    rw [hocc, hafter, hfinished]
    split <;> simp [*]

/-! ### The whole table (R92, R97) -/

/-- The event of a slot is sent a tend action when it is TEND and has occurrences (R97). -/
theorem Engine.tendsSent_eq (now : Moment) (en : Engine) :
    en.tendsSent now =
      (List.finRange 48).filterMap fun i => (en.slots.get i).bind fun e => e.tendSent now i := by
  unfold Engine.tendsSent
  congr 1
  funext i
  cases en.slots.get i <;> rfl

/-- Settles O37: the table's slots are evaluated each for itself, and the tend actions are those of its events. -/
theorem evaluationOfTheTable : Obligations.EvaluationOfTheTable := by
  rintro s now rfl
  refine ⟨_, _, _, rfl, fun i => Engine.evaluate_get _ s.engine i, fun e => ?_, Engine.tendsSent_eq _ s.engine⟩
  refine ⟨Event.evaluated_tag _ e, Event.evaluated_action _ e, Event.evaluated_targetLost _ e,
    Event.evaluated_of_no_occurrence, fun hocc => ?_⟩
  obtain ⟨hstate, hpending, hfirst⟩ := Event.evaluated_due (Nat.pos_of_ne_zero hocc)
  exact ⟨hpending, hstate, hfirst⟩

end Sys2Proof.Machine

/-! SUPPORT. What a command can do to the event engine: the cases of `EngineStep`, and which case each command is. -/

namespace Sys2Proof.Machine

open Sys2Proof

/-! ### Slots and tags (R83, R88) -/

theorem Engine.freeSlot_eq_some {en : Engine} {i : Slot} :
    en.freeSlot = some i ↔ en.slots.get i = none ∧ ∀ j < i, en.slots.get j ≠ none := by
  rw [Engine.freeSlot, List.find?_eq_some_iff_getElem]
  simp only [List.length_finRange, List.getElem_finRange, Option.isNone_iff_eq_none]
  constructor
  · rintro ⟨hfree, k, hk, rfl, hbefore⟩
    exact ⟨hfree, fun j hj => by simpa [Option.isSome_iff_ne_none] using hbefore j.val hj⟩
  · rintro ⟨hfree, hbefore⟩
    exact ⟨hfree, i.val, i.isLt, rfl, fun j hj => by
      simpa [Option.isSome_iff_ne_none] using hbefore ⟨j, hj.trans i.isLt⟩ hj⟩

theorem Engine.freeSlot_eq_none {en : Engine} : en.freeSlot = none ↔ ∀ i, en.slots.get i ≠ none := by
  simp [Engine.freeSlot]

theorem Engine.slotOfTag_eq_none {en : Engine} {tag : Nat} :
    en.slotOfTag tag = none ↔ ∀ i, ∀ e ∈ en.slots.get i, e.tag ≠ tag := by
  simp only [Engine.slotOfTag, List.find?_eq_none, List.mem_finRange, forall_const]
  refine forall_congr' fun i => ?_
  cases en.slots.get i <;> simp

theorem Engine.slotOfTag_isSome {en : Engine} {tag : Nat} :
    (en.slotOfTag tag).isSome = true ↔ ∃ i, ∃ e ∈ en.slots.get i, e.tag = tag := by
  rw [Option.isSome_iff_ne_none, Ne, Engine.slotOfTag_eq_none]
  push Not
  rfl

/-! ### An acknowledgement (R102) -/

theorem EventState.eq_due_of_ne_armed {st : EventState} (h : st ≠ .armed) : st = .due := by
  cases st
  · exact absurd rfl h
  · rfl

theorem Engine.acknowledge_lowered {en : Engine} {i : Slot} {e : Event} {n : Nat} (h : n < e.pendingCount) :
    en.acknowledge i e n =
      { en with slots := en.slots.set i (some { e with pendingCount := e.pendingCount - n }) } := if_pos h

/-- An acknowledgement of every pending occurrence takes the event off the due list. -/
theorem Engine.acknowledge_last {en : Engine} {i : Slot} {e : Event} {n : Nat} (h : e.pendingCount ≤ n) :
    en.acknowledge i e n =
      { en with
        slots := en.slots.set i (if e.finished = true then none else some { e with pendingCount := 0, state := .armed })
        dueList := en.dueList.filter fun j => j != i } := by
  unfold Engine.acknowledge Engine.free
  rw [if_neg h.not_gt]
  split <;> rfl

/-! ### Everything a command can do to the event engine -/

/-- Everything a command can do to the events, the due list and the threshold, against the calendar as the command
leaves it; tend actions and answers in flight are left open. -/
inductive EngineStep (c : Calendar) : Engine → Engine → Prop
  /-- Actions turned into NOTIFY in some slots (R97, R98); in none, nothing but what is in flight changes. -/
  | turned {en en' : Engine} (turn : Slot → Event → Event)
      (hslots : ∀ i, en'.slots.get i = (en.slots.get i).map (turn i))
      (hturn : ∀ i e, turn i e = e ∨ ∃ key, turn i e = e.retarget key)
      (hdue : en'.dueList = en.dueList) (hthreshold : en'.threshold = en.threshold) : EngineStep c en en'
  /-- An evaluation (R92). -/
  | evaluated (en : Engine) : EngineStep c en (en.evaluate c.moment)
  /-- An arming step, which fills a FREE slot with an event of a tag not in use (R82, R83). -/
  | armed (en : Engine) (i : Slot) (e : Event) (hfree : en.slots.get i = none)
      (htag : ∀ j, ∀ f ∈ en.slots.get j, f.tag ≠ e.tag) (hstate : e.state = .armed) (hwf : c.Wf → e.Wf) :
      EngineStep c en { en with slots := en.slots.set i (some e) }
  /-- A DUE event's pending count lowered and not to 0 (R102). -/
  | lowered (en : Engine) (i : Slot) (e : Event) (n : Nat) (he : en.slots.get i = some e) (hdue : e.state = .due)
      (hn : n < e.pendingCount) :
      EngineStep c en { en with slots := en.slots.set i (some { e with pendingCount := e.pendingCount - n }) }
  /-- A slot off the due list: FREE, or its event ARMED again (R90, R102). -/
  | off (en : Engine) (i : Slot) (after : Option Event)
      (hafter : ∀ f ∈ after, ∃ e ∈ en.slots.get i, e.finished = false ∧
        f = { e with pendingCount := 0, state := .armed }) :
      EngineStep c en
        { en with slots := en.slots.set i after, dueList := en.dueList.filter fun j => j != i }
  /-- SET-DUE-THRESHOLD (R104). -/
  | threshold (en : Engine) (n : Nat) (h1 : 1 ≤ n) (h48 : n ≤ 48) : EngineStep c en { en with threshold := n }
  /-- A cell reset (R105). -/
  | reset (en : Engine) : EngineStep c en .reset
  /-- One after the other. -/
  | trans {a b d : Engine} (h : EngineStep c a b) (k : EngineStep c b d) : EngineStep c a d

/-- Events, due list and threshold as they were. -/
theorem EngineStep.of_same {c : Calendar} {en en' : Engine} (hslots : en'.slots = en.slots)
    (hdue : en'.dueList = en.dueList) (hthreshold : en'.threshold = en.threshold) : EngineStep c en en' :=
  .turned (fun _ e => e) (by simp [hslots]) (fun _ _ => .inl rfl) hdue hthreshold

theorem EngineStep.of_eq {c : Calendar} {en en' : Engine} (h : en' = en) : EngineStep c en en' :=
  .of_same (by rw [h]) (by rw [h]) (by rw [h])

theorem EngineStep.retired (c : Calendar) (en : Engine) (key : Nat) : EngineStep c en (en.retired key) :=
  .turned (fun _ e => e.retarget key) (fun _ => Engine.retired_get _ _ _) (fun _ _ => .inr ⟨key, rfl⟩) rfl rfl

theorem EngineStep.answered (c : Calendar) (en : Engine) (a : TendAnswer) (rest : List TendAnswer) :
    EngineStep c en { en with slots := en.answeredSlots a, answers := rest } := by
  refine .turned _ (en.answeredSlots_get a) (fun i e => ?_) rfl rfl
  split
  · unfold Event.lostTarget
    split
    · exact .inr ⟨_, rfl⟩
    · exact .inl rfl
  · exact .inl rfl

theorem EngineStep.acknowledged (c : Calendar) {en : Engine} {i : Slot} {e : Event} (he : en.slots.get i = some e)
    (hdue : e.state = .due) (n : Nat) : EngineStep c en (en.acknowledge i e n) := by
  by_cases hn : n < e.pendingCount
  · rw [Engine.acknowledge_lowered hn]
    exact .lowered en i e n he hdue hn
  · rw [Engine.acknowledge_last (Nat.le_of_not_lt hn)]
    refine .off en i _ fun f hf => ?_
    split at hf
    · cases hf
    · rename_i hfinished
      cases hf
      exact ⟨e, he, by simpa using hfinished, rfl⟩

/-! ### Arming (R82 to R86) -/

/-- The checks of an arming in the words of R82, in order. -/
theorem firstFailing_armChecks (s : State) (tag : Half) (bad needsWall : Bool) (a : ActionBytes) :
    firstFailing (armChecks s tag bad needsWall a) =
      if tag = 0 ∨ bad = true ∨ 1 < a.action.toNat ∨ (a.action = 1 ∧ (a.key = 0 ∨ a.key = 0xFFFF)) then some .range
      else if needsWall = true ∧ s.calendar.state = .unset then some .unset
      else if ∃ i, ∃ e ∈ s.engine.slots.get i, e.tag = tag.toNat then some .tagTaken
      else if ∀ i, s.engine.slots.get i ≠ none then some .tableFull
      else if a.action = 1 ∧ s.store.find a.key.toNat = none then some .noRecord
      else if a.action = 1 ∧ (∀ r, s.store.find a.key.toNat = some r → r.counters.length ≤ a.index.toNat) then
        some .noCounter
      else none := by
  simp only [armChecks, firstFailing_cons, firstFailing_nil, Bool.or_eq_true, Bool.and_eq_true, beq_iff_eq,
    decide_eq_true_eq, badKey_iff, Engine.slotOfTag_isSome, Option.isNone_iff_eq_none, Engine.freeSlot_eq_none,
    Store.counterAt_eq_none]
  rw [← ite_or]
  simp only [or_assoc]

theorem CalendarState.eq_set_of_ne_unset {st : CalendarState} (h : st ≠ .unset) : st = .set := by
  cases st
  · exact absurd rfl h
  · rfl

/-- The checks every arming has passed (R82). -/
theorem armChecks_passed {s : State} {tag : Half} {bad needsWall : Bool} {a : ActionBytes}
    (h : firstFailing (armChecks s tag bad needsWall a) = none) :
    tag ≠ 0 ∧ bad = false ∧ (a.action = 1 → badKey a.key = false) ∧
      (needsWall = true → s.calendar.state = .set) ∧ s.engine.slotOfTag tag.toNat = none := by
  rw [firstFailing_armChecks] at h
  split_ifs at h with hrange hunset htag
  exact ⟨fun hzero => hrange (.inl hzero), Bool.eq_false_iff.2 fun hbad => hrange (.inr (.inl hbad)),
    fun htend => Bool.eq_false_iff.2 fun hkey => hrange (.inr (.inr (.inr ⟨htend, badKey_iff.1 hkey⟩))),
    fun hneeds => CalendarState.eq_set_of_ne_unset fun hstate => hunset ⟨hneeds, hstate⟩,
    Engine.slotOfTag_eq_none.2 fun i e he heq => htag ⟨i, e, he, heq⟩⟩

theorem armAction_wf {a : ActionBytes} (h : a.action = 1 → badKey a.key = false) : (armAction a).Wf := by
  unfold armAction
  split
  · have hkey := h ‹_›
    simp only [badKey, Bool.or_eq_false_iff, beq_eq_false_iff_ne] at hkey
    exact ⟨⟨by bv_omega, by bv_omega⟩, BitVec.le_toInt a.step, Int.le_of_lt_add_one BitVec.toInt_lt⟩
  · trivial

/-- An arming that has passed its checks fills its slot with an event in good order. -/
theorem armedEvent_wf {tag : Half} {schedule : Schedule} {a : ActionBytes} (htag : tag ≠ 0) (hsch : schedule.Wf)
    (hkey : a.action = 1 → badKey a.key = false) : (armedEvent tag schedule a).Wf := by
  have hpos : tag.toNat ≠ 0 := fun h0 => htag (BitVec.eq_of_toNat_eq h0)
  exact ⟨Nat.pos_of_ne_zero hpos, Nat.le_of_lt_succ tag.isLt, Nat.zero_le _, hsch, Nat.zero_le _,
    by simp [armedEvent], by simp [armedEvent], armAction_wf hkey⟩

/-- Everything an arming request can do to the engine. -/
theorem State.armRequest_engineStep (s : State) {tag : Half} {bad needsWall : Bool} {schedule : Schedule}
    {a : ActionBytes}
    (hgood : s.calendar.Wf → bad = false → (needsWall = true → s.calendar.state = .set) → schedule.Wf) :
    EngineStep (s.armRequest tag bad needsWall schedule a).calendar s.engine
      (s.armRequest tag bad needsWall schedule a).engine := by
  refine State.armRequest_cases (P := fun t => EngineStep t.calendar s.engine t.engine) (fun _ => .of_eq rfl)
    fun slot hchecks hslot => ?_
  obtain ⟨htag, hbad, hkey, hwall, hnew⟩ := armChecks_passed hchecks
  obtain ⟨data, harm⟩ := s.arm_answers slot (armedEvent tag schedule a)
  rw [harm]
  exact .trans (.armed s.engine slot _ (Engine.freeSlot_eq_some.1 hslot).1 (Engine.slotOfTag_eq_none.1 hnew) rfl
    fun hc => armedEvent_wf htag (hgood hc hbad hwall) hkey) (.evaluated _)

theorem Schedule.wf_of_armElapsed {c : Calendar} (hc : c.Wf) {first interval : BitVec 24}
    (hbad : (first == 0) = false) : (Schedule.elapsed (c.trueSecond + first.toNat) interval.toNat).Wf := by
  have hsecond : c.trueSecond ≤ 4294967295 := hc.1
  have hfirst : first ≠ 0 := by simpa using hbad
  refine ⟨?_, ?_, ?_⟩ <;> bv_omega

theorem Schedule.wf_of_armDaily {c : Calendar} (hc : c.Wf) {period first : Byte} (hbad : (period == 0) = false)
    (hset : c.state = .set) :
    (Schedule.daily (c.gameDay + first.toNat - period.toNat) period.toNat
      (c.gameDay + first.toNat - period.toNat)).Wf := by
  obtain ⟨-, hlow, hhigh, -⟩ := gameDayAndWeekday c hc hset
  have hperiod : period ≠ 0 := by simpa using hbad
  refine ⟨⟨?_, ?_⟩, ⟨?_, ?_⟩, ?_, ?_, Int.le_refl _, by simp⟩ <;> bv_omega

theorem Schedule.wf_of_armWall {due : BitVec 32} (hbad : decide (Config.topWall < due.toNat) = false) :
    (Schedule.wallOnce due.toNat).Wf := Nat.le_of_not_lt (of_decide_eq_false hbad)

/-! ### Every command -/

/-- A submit can do to the engine what the owning block can. -/
theorem submit_engineStep {s : State} {bytes : List Byte} {act : Bool → State → State}
    (hact : ∀ woke u, EngineStep (act woke u).calendar u.engine (act woke u).engine) :
    EngineStep (submit bytes act s).calendar s.engine (submit bytes act s).engine :=
  submit_cases (P := fun t => EngineStep t.calendar s.engine t.engine) (.of_eq rfl) (.of_eq rfl) fun _ woke => by
    simpa using hact woke (s.wake.taken bytes)

theorem State.onSlot_engineStep {u : State} {bad : Bool} {slot : Byte} {act : Slot → Event → State}
    (hact : ∀ i e, u.engine.slots.get i = some e → EngineStep (act i e).calendar u.engine (act i e).engine) :
    EngineStep (u.onSlot bad slot act).calendar u.engine (u.onSlot bad slot act).engine :=
  State.onSlot_cases (P := fun t => EngineStep t.calendar u.engine t.engine) (.of_eq rfl) (.of_eq rfl)
    fun _ _ _ he => hact _ _ he

theorem State.takeReading_engineStep (s : State) (r : Reading) :
    EngineStep s.calendar s.engine (s.takeReading r).engine := by
  obtain ⟨_, _, h⟩ | ⟨_, _, h⟩ | ⟨_, _, h⟩ | ⟨_, _, h⟩ := s.takeReading_cases r <;> rw [h]
  · exact .of_eq rfl
  · exact .evaluated s.engine
  · exact .of_eq rfl
  · exact .of_eq rfl

/-- Every command's effect on the event engine is made of `EngineStep`'s. -/
theorem exec_engineStep {c : Instr} {s t : State} (h : exec c s = .next t) :
    EngineStep t.calendar s.engine t.engine := by
  cases c
  case armElapsed =>
    cases h
    exact submit_engineStep fun _ u => u.armRequest_engineStep fun hc hbad _ => Schedule.wf_of_armElapsed hc hbad
  case armDaily =>
    cases h
    exact submit_engineStep fun _ u => u.armRequest_engineStep fun hc hbad hset =>
      Schedule.wf_of_armDaily hc hbad (hset rfl)
  case armWall =>
    cases h
    exact submit_engineStep fun _ u => u.armRequest_engineStep fun _ hbad _ => Schedule.wf_of_armWall hbad
  case retire key =>
    cases h
    refine submit_engineStep fun _ u => ?_
    refine State.onRecord_cases (P := fun t => EngineStep t.calendar u.engine t.engine) (fun _ => .of_eq rfl)
      (fun _ _ => .of_eq rfl) fun _ e _ => ?_
    split
    · exact .of_eq rfl
    · exact .retired _ u.engine key.toNat
  case tendAction =>
    cases h
    split
    · exact .of_same rfl rfl rfl
    · exact .of_eq rfl
    · exact .of_eq rfl
  case tendAnswer =>
    cases h
    split
    · exact .answered _ s.engine _ _
    · exact .of_eq rfl
    · exact .of_eq rfl
  case setWall =>
    cases h
    refine submit_engineStep fun _ u => ?_
    dsimp only
    split
    · exact .of_eq rfl
    · exact .evaluated u.engine
  case setDayTurn =>
    cases h
    refine submit_engineStep fun _ u => ?_
    dsimp only
    split
    · exact .of_eq rfl
    · exact .evaluated u.engine
  case secondEvent =>
    cases h
    split
    · dsimp only
      split
      · exact .evaluated s.engine
      · exact .of_eq rfl
    · exact .of_eq rfl
  case minuteEvent =>
    cases h
    split
    · exact .of_eq rfl
    · dsimp only
      split
      · exact .of_eq rfl
      · split
        · exact .evaluated s.engine
        · rw [State.takeReading_calendar]
          exact .trans (.evaluated s.engine) (State.takeReading_engineStep _ _)
  case cancelEvent =>
    cases h
    exact submit_engineStep fun _ u => State.onSlot_engineStep fun i _ _ => .off u.engine i none nofun
  case ackDue =>
    cases h
    refine submit_engineStep fun _ u => State.onSlot_engineStep fun i e he => ?_
    split
    · exact .of_eq rfl
    · exact .acknowledged _ he (EventState.eq_due_of_ne_armed ‹_›) _
  case setDueThreshold =>
    cases h
    exact submit_engineStep fun _ u => .threshold u.engine _ (by omega) (by omega)
  case supplyReading =>
    cases h
    split
    · rw [State.takeReading_calendar]
      exact State.takeReading_engineStep _ _
    · exact .of_eq rfl
  case wakeEvent =>
    cases h
    split
    · rw [State.takeReading_calendar]
      exact State.takeReading_engineStep _ _
    · exact .of_eq rfl
  case consoleReset =>
    cases h
    dsimp only
    split
    · exact .evaluated s.engine
    · exact .of_eq rfl
  case cellReset =>
    cases h
    exact .reset s.engine
  all_goals exact .of_eq (exec_keeps_engine rfl h)

end Sys2Proof.Machine

/-! The invariants of every step: the event table (O38) and the due list (O39). -/

namespace Sys2Proof.Machine

open Sys2Proof

/-! ### Events in good order (R80, R81) -/

/-- A reading of the calendar with T and G in their ranges (R58, R66). -/
structure Moment.Wf (now : Moment) : Prop where
  second : now.second ≤ Config.maxSecond
  day : now.isSet = true → now.day ≤ 36525

theorem Calendar.moment_wf {c : Calendar} (h : c.Wf) : c.moment.Wf := by
  refine ⟨h.1, fun hset => ?_⟩
  have hstate : c.state = .set := by simpa [Calendar.moment] using hset
  exact (gameDayAndWeekday c h hstate).2.2.1

/-- A count leaves the schedule in range: N stays within an interval of T, and L does not pass G (R93, R94). -/
theorem Schedule.count_wf {now : Moment} (hnow : now.Wf) {sch : Schedule} (h : sch.Wf) :
    (sch.count now).schedule.Wf := by
  cases sch with
  | elapsed next interval =>
    by_cases hahead : now.second < next
    · rwa [Schedule.count_elapsed_ahead hahead]
    · have hreached := Nat.le_of_not_lt hahead
      rcases Nat.eq_zero_or_pos interval with rfl | hpos
      · rwa [Schedule.count_elapsed_once hreached]
      · rw [Schedule.count_elapsed_repeating hreached hpos]
        obtain ⟨habove, hwithin⟩ := elapsed_next_bounds hreached hpos
        obtain ⟨-, -, hinterval⟩ := h
        have hsecond : now.second ≤ 4294967295 := hnow.second
        exact ⟨Nat.one_le_of_lt habove, by omega, hinterval⟩
  | daily anchor period lastServed =>
    obtain ⟨hanchor, hlast, h1, h255, hle, hdvd⟩ := id h
    by_cases hset : now.isSet = true
    · by_cases hpassed : (lastServed - anchor) / (period : Int) < (now.day - anchor) / (period : Int)
      · rw [Schedule.count_daily_passed hset h1 hpassed]
        have hup := lastDueDay_mono hpassed.le
        rw [lastDueDay_eq_self hdvd] at hup
        have hday := hnow.day hset
        have htop := lastDueDay_le h1 anchor now.day
        exact ⟨hanchor, ⟨by omega, by omega⟩, h1, h255, by omega, dvd_lastDueDay_sub _ _ _⟩
      · rwa [Schedule.count_daily_served (Int.not_lt.1 hpassed)]
    · rwa [Schedule.count_daily_unset (by simpa using hset)]
  | wallOnce due =>
    rw [Schedule.count_wallOnce]
    split <;> exact h

/-- An evaluation keeps an event in good order: with occurrences it is DUE, with 1 to 255 of them pending (R96). -/
theorem Event.evaluated_wf {now : Moment} (hnow : now.Wf) {e : Event} (h : e.Wf) : (e.evaluated now).Wf := by
  by_cases hfin : e.finished = true
  · rwa [Event.evaluated_finished hfin]
  obtain ⟨htag, htag', hfirst, hsch, hpending, hdue, hfinished, haction⟩ := h
  have hsch' := Schedule.count_wf hnow hsch
  rw [← Event.evaluated_schedule (by simpa using hfin)] at hsch'
  by_cases hocc : e.occurrences now = 0
  · rw [Event.evaluated_of_no_occurrence hocc]
    exact ⟨htag, htag', hfirst, hsch', hpending, hdue, hfinished, haction⟩
  · obtain ⟨hstate', hpending', hfirst'⟩ := Event.evaluated_due (Nat.pos_of_ne_zero hocc)
    refine ⟨by simpa using htag, by simpa using htag', ?_, hsch', ?_, ?_, fun _ => hstate', by simpa using haction⟩
    · rw [hfirst']
      split
      · exact hnow.second
      · exact hfirst
    · exact hpending' ▸ Nat.min_le_left _ _
    · rw [hstate', hpending', Config.pendingMax]
      exact iff_of_true rfl (by omega)

theorem Event.retarget_wf {e : Event} (h : e.Wf) (key : Nat) : (e.retarget key).Wf := by
  obtain ⟨htag, hstate, hsch, hfin, hpending, hfirst⟩ := e.retarget_keeps key
  have haction : (e.retarget key).action.Wf := by
    unfold Event.retarget
    split
    · exact h.2.2.2.2.2.2.2
    · split
      · trivial
      · exact h.2.2.2.2.2.2.2
  simp only [Event.Wf, htag, hstate, hsch, hfin, hpending, hfirst] at h ⊢
  tauto

/-! ### The event table (R80) -/

/-- Events changed each for itself, their tags kept. -/
theorem Engine.TableWf.map {en en' : Engine} (h : en.TableWf) {f : Slot → Event → Event}
    (hslots : ∀ i, en'.slots.get i = (en.slots.get i).map (f i)) (htag : ∀ i e, (f i e).tag = e.tag)
    (hwf : ∀ i e, e.Wf → (f i e).Wf) : en'.TableWf := by
  obtain ⟨hgood, hdistinct⟩ := h
  refine ⟨fun i x hx => ?_, fun i j x hx y hy hxy => ?_⟩
  · rw [hslots, Option.mem_map] at hx
    obtain ⟨e, he, rfl⟩ := hx
    exact hwf i e (hgood i e he)
  · rw [hslots, Option.mem_map] at hx hy
    obtain ⟨e, he, rfl⟩ := hx
    obtain ⟨g, hg, rfl⟩ := hy
    rw [htag, htag] at hxy
    exact hdistinct i j e he g hg hxy

/-- One slot filled with an event of a tag no other slot holds, or made FREE. -/
theorem Engine.TableWf.set {en en' : Engine} (h : en.TableWf) {i : Slot} {after : Option Event}
    (hslots : en'.slots = en.slots.set i after) (hwf : ∀ e ∈ after, e.Wf)
    (htag : ∀ e ∈ after, ∀ j, j ≠ i → ∀ f ∈ en.slots.get j, f.tag ≠ e.tag) : en'.TableWf := by
  obtain ⟨hgood, hdistinct⟩ := h
  have hget (j : Slot) : en'.slots.get j = if i = j then after else en.slots.get j := by rw [hslots, Table.get_set]
  refine ⟨fun j x hx => ?_, fun j k x hx y hy hxy => ?_⟩
  · rw [hget] at hx
    split at hx
    · exact hwf x hx
    · exact hgood j x hx
  · rw [hget] at hx hy
    split at hx <;> split at hy
    · exact (‹i = j› : i = j).symm.trans ‹i = k›
    · exact absurd hxy.symm (htag x hx k (Ne.symm ‹_›) y hy)
    · exact absurd hxy (htag y hy j (Ne.symm ‹_›) x hx)
    · exact hdistinct j k x hx y hy hxy

/-- No other slot holds the tag of a slot's event. -/
theorem Engine.TableWf.tag_ne {en : Engine} (h : en.TableWf) {i : Slot} {e : Event} (he : en.slots.get i = some e)
    {tag : Nat} (htag : e.tag = tag) : ∀ j, j ≠ i → ∀ f ∈ en.slots.get j, f.tag ≠ tag :=
  fun j hne f hf heq => hne (h.2 j i f hf e he (heq.trans htag.symm))

theorem EngineStep.tableWf {c : Calendar} {en en' : Engine} (h : EngineStep c en en') (hc : c.Wf) (hen : en.TableWf) :
    en'.TableWf := by
  induction h with
  | turned turn hslots hturn =>
    refine hen.map hslots (fun i e => ?_) fun i e he => ?_
    · obtain heq | ⟨key, heq⟩ := hturn i e <;> rw [heq]
      exact (e.retarget_keeps key).1
    · obtain heq | ⟨key, heq⟩ := hturn i e <;> rw [heq]
      · exact he
      · exact Event.retarget_wf he key
  | evaluated en =>
    exact hen.map (fun i => Engine.evaluate_get _ _ i) (fun _ _ => Event.evaluated_tag _ _)
      fun _ _ => Event.evaluated_wf (Calendar.moment_wf hc)
  | armed en i e hfree htag hstate hwf =>
    refine hen.set rfl ?_ ?_ <;> rintro _ ⟨⟩
    · exact hwf hc
    · exact fun j _ => htag j
  | lowered en i e n he hdue hn =>
    refine hen.set rfl ?_ ?_ <;> rintro _ ⟨⟩
    · obtain ⟨htag, htag', hfirst, hsch, hpending, -, hfinished, haction⟩ := hen.1 i e he
      exact ⟨htag, htag', hfirst, hsch, (Nat.sub_le _ _).trans hpending, iff_of_true hdue (Nat.sub_pos_of_lt hn),
        hfinished, haction⟩
    · exact hen.tag_ne he rfl
  | off en i after hafter =>
    refine hen.set rfl (fun f hf => ?_) fun f hf => ?_ <;> obtain ⟨e, he, hfinished, rfl⟩ := hafter f hf
    · obtain ⟨htag, htag', hfirst, hsch, -, -, -, haction⟩ := hen.1 i e he
      exact ⟨htag, htag', hfirst, hsch, Nat.zero_le _, by simp, by simp [hfinished], haction⟩
    · exact hen.tag_ne he rfl
  | threshold => exact hen
  | reset =>
    have hfree (i : Slot) : Engine.reset.slots.get i = none := Table.get_fill none i
    simp [Engine.TableWf, hfree]
  | trans _ _ ih ih' => exact ih' (ih hen)

/-- Settles O38: every command's effect on the engine is made of `EngineStep`'s, against a calendar that is kept in good
order. -/
theorem eventTableWfKept : Obligations.EventTableWfKept := fun _ _ hc hs h =>
  (step_keeps (P := fun s => s.calendar.Wf ∧ s.engine.TableWf) (fun _ _ => id)
    (fun _ _ _ ⟨hc, hs⟩ h =>
      have hc' := (exec_calendarStep h).wf hc
      ⟨hc', (exec_engineStep h).tableWf hc' hs⟩) ⟨hc, hs⟩ h).2

/-! ### The due list (R100, R104) -/

/-- The first-due second of an event while it is DUE. -/
def Event.dueSince (e : Event) : Option Nat := if e.state = .due then some e.firstDue else none

/-- The first-due second of a slot's event while it is DUE: all of the table that the due list depends on. -/
def Engine.dueSince (en : Engine) (i : Slot) : Option Nat := (en.slots.get i).bind Event.dueSince

theorem Event.dueSince_due {e : Event} (h : e.state = .due) : e.dueSince = some e.firstDue := if_pos h

theorem Event.dueSince_armed {e : Event} (h : e.state = .armed) : e.dueSince = none := if_neg (by simp [h])

theorem Engine.dueSince_of_none {en : Engine} {i : Slot} (h : en.slots.get i = none) : en.dueSince i = none := by
  rw [Engine.dueSince, h]
  rfl

theorem Engine.dueSince_of_some {en : Engine} {i : Slot} {e : Event} (h : en.slots.get i = some e) :
    en.dueSince i = e.dueSince := by
  rw [Engine.dueSince, h]
  rfl

theorem Engine.dueSince_set {en en' : Engine} {i : Slot} {after : Option Event}
    (hslots : en'.slots = en.slots.set i after) (j : Slot) :
    en'.dueSince j = if i = j then after.bind Event.dueSince else en.dueSince j := by
  rw [Engine.dueSince, hslots, Table.get_set]
  split <;> rfl

theorem Engine.isDue_iff {en : Engine} {i : Slot} : en.isDue i = true ↔ ∃ n, en.dueSince i = some n := by
  cases h : en.slots.get i with
  | none => simp [Engine.isDue, Engine.dueSince_of_none h, h]
  | some e => simp [Engine.isDue, Engine.dueSince_of_some h, h, Event.dueSince]

theorem Engine.firstDueOf_eq {en : Engine} {i : Slot} {n : Nat} (h : en.dueSince i = some n) :
    firstDueOf en.slots i = n := by
  obtain ⟨e, he, hdue⟩ := Option.bind_eq_some_iff.1 h
  rw [Event.dueSince, Option.ite_none_right_eq_some] at hdue
  rw [firstDueOf, he]
  exact Option.some.inj hdue.2

/-- Slots that stay DUE since the same second keep their order on the due list. -/
theorem Engine.dueOrder_congr {en en' : Engine} {l : List Slot}
    (hsorted : l.Pairwise fun i j => dueBefore en.slots i j = true)
    (hdue : ∀ i ∈ l, en.isDue i = true) (hsame : ∀ i ∈ l, en'.dueSince i = en.dueSince i) :
    l.Pairwise fun i j => dueBefore en'.slots i j = true := by
  have hfirst : ∀ i ∈ l, firstDueOf en'.slots i = firstDueOf en.slots i := fun i hi => by
    obtain ⟨n, hn⟩ := Engine.isDue_iff.1 (hdue i hi)
    rw [Engine.firstDueOf_eq hn, Engine.firstDueOf_eq ((hsame i hi).trans hn)]
  exact hsorted.imp_of_mem fun hi hj h => by rwa [dueBefore_congr (hfirst _ hi) (hfirst _ hj)]

/-- The due list stays in good order when it and what it depends on stay. -/
theorem Engine.DueListWf.congr {en en' : Engine} (h : en.DueListWf) (hlist : en'.dueList = en.dueList)
    (hthreshold : en'.threshold = en.threshold) (hsame : ∀ i, en'.dueSince i = en.dueSince i) : en'.DueListWf := by
  obtain ⟨hsorted, hmem, hrange⟩ := h
  rw [Engine.DueListWf, hlist, hthreshold]
  refine ⟨Engine.dueOrder_congr hsorted (fun i => (hmem i).1) fun i _ => hsame i, fun i => ?_, hrange⟩
  rw [hmem, Engine.isDue_iff, Engine.isDue_iff, hsame]

/-- A slot taken off the list whose event is DUE no longer. -/
theorem Engine.DueListWf.off {en en' : Engine} (h : en.DueListWf) {i : Slot}
    (hlist : en'.dueList = en.dueList.filter fun j => j != i) (hthreshold : en'.threshold = en.threshold)
    (hoff : en'.dueSince i = none) (hsame : ∀ j, j ≠ i → en'.dueSince j = en.dueSince j) : en'.DueListWf := by
  obtain ⟨hsorted, hmem, hrange⟩ := h
  rw [Engine.DueListWf, hlist, hthreshold]
  refine ⟨Engine.dueOrder_congr (hsorted.filter _) (fun j hj => (hmem j).1 (List.mem_of_mem_filter hj)) fun j hj => ?_,
    fun j => ?_, hrange⟩
  · exact hsame j (by simpa using (List.mem_filter.1 hj).2)
  · rw [List.mem_filter, hmem, Engine.isDue_iff, Engine.isDue_iff]
    by_cases hj : j = i
    · subst hj
      simp [hoff]
    · simp [hj, hsame j hj]

/-- Slots that are not on the list join it one by one, and it stays in order. -/
theorem foldl_joinDue_sorted {slots : Table (Option Event) 48} {new list : List Slot}
    (hsorted : list.Pairwise fun i j => dueBefore slots i j = true) (hnew : new.Nodup) (hout : ∀ i ∈ new, i ∉ list) :
    (new.foldl (fun list i => joinDue slots i list) list).Pairwise fun i j => dueBefore slots i j = true := by
  induction new generalizing list with
  | nil => exact hsorted
  | cons x rest ih =>
    obtain ⟨hx, hrest⟩ := List.nodup_cons.1 hnew
    refine ih (joinDue_sorted hsorted (hout x (List.mem_cons_self ..))) hrest fun i hi hmem => ?_
    rcases mem_joinDue.1 hmem with rfl | hmem
    · exact hx hi
    · exact hout i (List.mem_cons_of_mem _ hi) hmem

theorem Event.dueSince_evaluated (now : Moment) (e : Event) :
    (e.evaluated now).dueSince = if e.fallsDue now = true then some now.second else e.dueSince := by
  by_cases hocc : e.occurrences now = 0
  · obtain ⟨hstate, -, hfirst, -⟩ := Event.evaluated_quiet hocc
    rw [if_neg (by simp [Event.fallsDue, hocc]), Event.dueSince, hstate, hfirst, Event.dueSince]
  · have hpos := Nat.pos_of_ne_zero hocc
    obtain ⟨hstate, -, hfirst⟩ := Event.evaluated_due hpos
    rw [Event.dueSince_due hstate, hfirst]
    cases hbefore : e.state with
    | armed => rw [if_pos rfl, if_pos (by simp [Event.fallsDue, hbefore, hpos])]
    | due => rw [if_neg nofun, if_neg (by simp [Event.fallsDue, hbefore]), Event.dueSince_due hbefore]

/-- An evaluation leaves a slot DUE since the second it was, or makes it DUE now. -/
theorem Engine.dueSince_evaluate (now : Moment) (en : Engine) (i : Slot) :
    (en.evaluate now).dueSince i = if i ∈ en.newlyDue now then some now.second else en.dueSince i := by
  cases he : en.slots.get i with
  | none =>
    have hnew : i ∉ en.newlyDue now := fun hmem => by
      obtain ⟨e, he', -⟩ := Engine.mem_newlyDue.1 hmem
      simp [he] at he'
    rw [if_neg hnew, Engine.dueSince_of_none he, Engine.dueSince_of_none (by rw [Engine.evaluate_get, he]; rfl)]
  | some e =>
    have hmem : i ∈ en.newlyDue now ↔ e.fallsDue now = true := by simp [Engine.mem_newlyDue, he]
    rw [Engine.dueSince_of_some he, Engine.dueSince_of_some (by rw [Engine.evaluate_get, he]; rfl),
      Event.dueSince_evaluated]
    simp only [hmem]

/-- No slot that falls due was DUE. -/
theorem Engine.dueSince_of_newlyDue {now : Moment} {en : Engine} {i : Slot} (h : i ∈ en.newlyDue now) :
    en.dueSince i = none := by
  obtain ⟨e, he, hfalls⟩ := Engine.mem_newlyDue.1 h
  have hstate : e.state = .armed := by
    rw [Event.fallsDue, Bool.and_eq_true, beq_iff_eq] at hfalls
    exact hfalls.1
  rw [Engine.dueSince_of_some he, Event.dueSince_armed hstate]

theorem Engine.DueListWf.evaluate {en : Engine} (h : en.DueListWf) (now : Moment) : (en.evaluate now).DueListWf := by
  obtain ⟨hsorted, hmem, hrange⟩ := h
  have hout : ∀ i ∈ en.newlyDue now, i ∉ en.dueList := fun i hi hlist => by
    obtain ⟨n, hn⟩ := Engine.isDue_iff.1 ((hmem i).1 hlist)
    simp [Engine.dueSince_of_newlyDue hi] at hn
  have hstay : ∀ i ∈ en.dueList, (en.evaluate now).dueSince i = en.dueSince i := fun i hi => by
    rw [Engine.dueSince_evaluate, if_neg fun hnew => hout i hnew hi]
  refine ⟨?_, fun i => ?_, hrange⟩
  · exact foldl_joinDue_sorted (Engine.dueOrder_congr hsorted (fun i => (hmem i).1) hstay) (en.newlyDue_nodup now) hout
  · rw [Engine.mem_evaluate_dueList, hmem, Engine.isDue_iff, Engine.isDue_iff, Engine.dueSince_evaluate]
    split <;> simp [*]

theorem EngineStep.dueListWf {c : Calendar} {en en' : Engine} (h : EngineStep c en en') (hen : en.DueListWf) :
    en'.DueListWf := by
  induction h with
  | @turned en en' turn hslots hturn hdue hthreshold =>
    refine hen.congr hdue hthreshold fun i => ?_
    cases he : en.slots.get i with
    | none => rw [Engine.dueSince_of_none he, Engine.dueSince_of_none (by rw [hslots, he]; rfl)]
    | some e =>
      have hget : en'.slots.get i = some (turn i e) := by rw [hslots, he]; rfl
      rw [Engine.dueSince_of_some he, Engine.dueSince_of_some hget]
      obtain heq | ⟨key, heq⟩ := hturn i e <;> rw [heq]
      obtain ⟨-, hstate, -, -, -, hfirst⟩ := e.retarget_keeps key
      rw [Event.dueSince, hstate, hfirst, Event.dueSince]
  | evaluated => exact hen.evaluate _
  | armed en i e hfree htag hstate hwf =>
    refine hen.congr rfl rfl fun j => ?_
    rw [Engine.dueSince_set rfl]
    split
    · subst j
      rw [Engine.dueSince_of_none hfree]
      exact Event.dueSince_armed hstate
    · rfl
  | lowered en i e n he hdue hn =>
    refine hen.congr rfl rfl fun j => ?_
    rw [Engine.dueSince_set rfl]
    split
    · subst j
      rw [Engine.dueSince_of_some he]
      rfl
    · rfl
  | off en i after hafter =>
    refine hen.off rfl rfl ?_ fun j hj => ?_ <;> rw [Engine.dueSince_set rfl]
    · rw [if_pos rfl, Option.bind_eq_none_iff]
      intro f hf
      obtain ⟨e, -, -, rfl⟩ := hafter f hf
      rfl
    · rw [if_neg (Ne.symm hj)]
  | threshold en n h1 h48 => exact ⟨hen.1, hen.2.1, h1, h48⟩
  | reset =>
    refine ⟨List.Pairwise.nil, fun i => ?_, by decide, by decide⟩
    simp [Engine.isDue, Engine.reset]
  | trans _ _ ih ih' => exact ih' (ih hen)

/-- Settles O39: every command's effect on the engine is made of `EngineStep`'s. -/
theorem dueListWfKept : Obligations.DueListWfKept := fun _ _ hs h =>
  step_keeps (P := fun s => s.engine.DueListWf) (fun _ _ => id) (fun _ _ _ hs h => (exec_engineStep h).dueListWf hs)
    hs h

end Sys2Proof.Machine

/-! The arming requests (O34). -/

namespace Sys2Proof.Machine

open Sys2Proof

/-- An evaluation leaves the schedule point of an event that has yet to come due as it is; that of the wall kinds never
moves (R83, R195). -/
theorem Schedule.count_point {now : Moment} {sch : Schedule} (h : ∀ next interval, sch = .elapsed next interval →
    now.second < next) : (sch.count now).schedule.point = sch.point := by
  cases sch with
  | elapsed next interval => rw [Schedule.count_elapsed_ahead (h _ _ rfl)]
  | daily anchor period lastServed =>
    unfold Schedule.count
    dsimp only
    repeat' split
    all_goals rfl
  | wallOnce due =>
    rw [Schedule.count_wallOnce]
    split <;> rfl

theorem State.armRequest_refused {s : State} {tag : Half} {bad needsWall : Bool} {a : ActionBytes} {r : Result}
    (h : firstFailing (armChecks s tag bad needsWall a) = some r) (schedule : Schedule) :
    s.armRequest tag bad needsWall schedule a = s.answer r [] := by
  unfold State.armRequest
  rw [h]

theorem State.armRequest_armed {s : State} {tag : Half} {bad needsWall : Bool} {a : ActionBytes} {slot : Slot}
    (h : firstFailing (armChecks s tag bad needsWall a) = none) (hslot : s.engine.freeSlot = some slot)
    (schedule : Schedule) :
    s.armRequest tag bad needsWall schedule a = s.arm slot (armedEvent tag schedule a) := by
  unfold State.armRequest
  rw [h, hslot]

/-- The arming step, the evaluation, and the answer from the event as the evaluation left it (R83). -/
theorem State.arm_eq (s : State) (slot : Slot) (e : Event) {e' : Event} (he' : e' = e.evaluated s.calendar.moment) :
    s.arm slot e =
      ({ s with engine := { s.engine with slots := s.engine.slots.set slot (some e) } }.evaluate).answer .ok
        ([nat1 slot.val, e'.state.code, nat1 e'.pendingCount] ++ e'.schedule.point) := by
  have hget :
      ({ s with engine := { s.engine with slots := s.engine.slots.set slot (some e) } }.evaluate).engine.slots.get slot =
        some e' := by
    rw [he', State.evaluate, Engine.evaluate_get, Table.get_set_same]
    rfl
  rw [State.arm, State.armAnswer, hget]

/-- An arming request whose schedule point stays at the evaluation is an arming as R82 and R83 have it. -/
theorem armedAs_of_armRequest {c : Instr} {s : State} {tag : Half} {bad needsWall : Bool} {schedule : Schedule}
    {point : List Byte} {a : ActionBytes}
    (hexec : exec c s = .next ((s.serving c).armRequest tag bad needsWall schedule a))
    (hpoint : bad = false → (schedule.count s.calendar.moment).schedule.point = point) :
    ArmedAs c s tag bad needsWall schedule point a := by
  have hrefused {r : Result} (hr : firstFailing (armChecks (s.serving c) tag bad needsWall a) = some r) :
      Answers c s r [] := by
    rw [Answers, ServedAs, hexec, State.armRequest_refused hr]
  have hchecks := firstFailing_armChecks (s.serving c) tag bad needsWall a
  simp only [State.serving_calendar, State.serving_engine, State.serving_store] at hchecks
  split_ifs at hchecks with hrange hunset htag hfull hrecord hcounter
  · rw [ArmedAs, if_pos hrange]
    exact hrefused hchecks
  · rw [ArmedAs, if_neg hrange, if_pos hunset]
    exact hrefused hchecks
  · rw [ArmedAs, if_neg hrange, if_neg hunset, if_pos htag]
    exact hrefused hchecks
  · rw [ArmedAs, if_neg hrange, if_neg hunset, if_neg htag, if_pos hfull]
    exact hrefused hchecks
  · rw [ArmedAs, if_neg hrange, if_neg hunset, if_neg htag, if_neg hfull, if_pos hrecord]
    exact hrefused hchecks
  · rw [ArmedAs, if_neg hrange, if_neg hunset, if_neg htag, if_neg hfull, if_neg hrecord, if_pos hcounter]
    exact hrefused hchecks
  · rw [ArmedAs, if_neg hrange, if_neg hunset, if_neg htag, if_neg hfull, if_neg hrecord, if_neg hcounter]
    rintro slot hfree hbefore _ _ rfl rfl
    have hslot : (s.serving c).engine.freeSlot = some slot := by
      rw [State.serving_engine]
      exact Engine.freeSlot_eq_some.2 ⟨hfree, hbefore⟩
    have hbad : bad = false := Bool.eq_false_iff.2 fun hb => hrange (.inr (.inl hb))
    refine ⟨(armedEvent tag schedule a).evaluated (s.serving c).calendar.moment, ?_, ?_⟩
    · rw [State.evaluate, Engine.evaluate_get, Table.get_set_same]
      rfl
    · rw [hexec, State.armRequest_armed hchecks hslot, State.arm_eq _ _ _ rfl, Event.evaluated_schedule rfl,
        ← hpoint hbad, State.serving_calendar]
      rfl

/-- Settles O34: each arming request is `State.armRequest` with its own schedule, whose point the evaluation leaves. -/
theorem armingRequests : Obligations.ArmingRequests := by
  refine ⟨fun tag first interval a s h => ?_, fun tag period first a s anchor h hanchor => ?_, fun tag due a s h => ?_⟩
  · refine armedAs_of_armRequest ((exec_served (c := .armElapsed tag first interval a) h rfl).trans ?_) fun hbad => ?_
    · rw [State.serving_calendar]
      rfl
    · refine Schedule.count_point ?_
      rintro _ _ ⟨⟩
      have hfirst : first ≠ 0 := of_decide_eq_false hbad
      show s.calendar.trueSecond < _
      bv_omega
  · subst hanchor
    refine armedAs_of_armRequest ((exec_served (c := .armDaily tag period first a) h rfl).trans ?_) fun _ => ?_
    · rw [State.serving_calendar]
      rfl
    · rw [Schedule.count_point (by rintro _ _ ⟨⟩), Schedule.point, Int.sub_add_cancel]
  · exact armedAs_of_armRequest (exec_served (c := .armWall tag due a) h rfl) fun _ =>
      Schedule.count_point (by rintro _ _ ⟨⟩)

end Sys2Proof.Machine

/-! The other requests of the event engine (O35). -/

namespace Sys2Proof.Machine

open Sys2Proof

/-! ### The bytes of an event (R195, 11.4) -/

theorem EventState.code_eq (st : EventState) : st.code = if st = .armed then 1 else 2 := by
  cases st <;> rfl

theorem Schedule.code_eq (sch : Schedule) :
    sch.code = match sch with | .elapsed .. => 0 | .daily .. => 1 | .wallOnce _ => 2 := by
  cases sch <;> rfl

theorem Event.marks_eq (e : Event) : e.marks = nat1 (e.finished.toNat + 2 * e.targetLost.toNat) := by
  have htable : ∀ finished targetLost : Bool,
      bits finished targetLost false false false false false false = nat1 (finished.toNat + 2 * targetLost.toNat) := by
    decide
  exact htable _ _

/-- The fields of other kinds are 0 (R89). -/
theorem Schedule.record_eq (sch : Schedule) :
    sch.record =
      match sch with
      | .elapsed next interval => nat5 next ++ nat3 interval ++ List.replicate 13 0
      | .daily anchor period last =>
        List.replicate 8 0 ++ int4 anchor ++ [nat1 period] ++ int4 last ++ List.replicate 4 0
      | .wallOnce due => List.replicate 17 0 ++ nat4 due := by
  cases sch <;> rfl

theorem Action.record_eq (action : Action) :
    action.record =
      match action with
      | .notify => List.replicate 5 0
      | .tend key index step => [1] ++ nat2 key ++ [nat1 index, BitVec.ofInt 8 step] := by
  cases action <;> rfl

theorem nat1_slot {slot : Byte} {i : Slot} (hi : slot.toNat = i.val) : nat1 i.val = slot := by
  rw [← hi, nat1, BitVec.ofNat_toNat, BitVec.setWidth_eq]

/-! ### FIND-EVENT (R88) -/

/-- No two events hold one tag, so the slot found is the one that holds it. -/
theorem Engine.slotOfTag_eq_some {en : Engine} (h : en.TableWf) {i : Slot} {e : Event} (he : en.slots.get i = some e) :
    en.slotOfTag e.tag = some i := by
  cases hfind : en.slotOfTag e.tag with
  | none => exact absurd rfl (Engine.slotOfTag_eq_none.1 hfind i e he)
  | some j =>
    have hholds := List.find?_some hfind
    split at hholds
    · rename_i f hf
      rw [h.2 j i f hf e he (by simpa using hholds)]
    · cases hholds

theorem findEvent_answers {tag : Half} {s : State} (h : s.Accepts) (hs : s.engine.TableWf) :
    (tag = 0 → Answers (.findEvent tag) s .range []) ∧
      (tag ≠ 0 → (∀ i, ∀ e ∈ s.engine.slots.get i, e.tag ≠ tag.toNat) → Answers (.findEvent tag) s .noEvent []) ∧
      ∀ i, ∀ e ∈ s.engine.slots.get i, e.tag = tag.toNat →
        Answers (.findEvent tag) s .ok [nat1 i.val, e.state.code, e.schedule.code] := by
  have hserved := exec_served (c := .findEvent tag) h rfl
  refine ⟨fun hzero => ?_, fun hzero hnone => ?_, fun i e he htag => ?_⟩
  · rw [Answers, ServedAs, hserved, if_pos hzero]
  · rw [Answers, ServedAs, hserved, if_neg hzero, State.serving_engine, Engine.slotOfTag_eq_none.2 hnone]
  · have hzero : tag ≠ 0 := by
      rintro rfl
      exact absurd (hs.1 i e he).1 (by simp [htag])
    have hget : s.engine.slots.get i = some e := he
    rw [Answers, ServedAs, hserved, if_neg hzero, State.serving_engine, ← htag, Engine.slotOfTag_eq_some hs he]
    simp only [hget]

/-! ### A request on a slot that is taken (R89, R90, R102) -/

theorem State.onSlot_high (s : State) (bad : Bool) {slot : Byte} (h : 48 ≤ slot.toNat) (act : Slot → Event → State) :
    s.onSlot bad slot act = s.answer .range [] := dif_neg h.not_gt

theorem State.onSlot_bad (s : State) (slot : Byte) (act : Slot → Event → State) :
    s.onSlot true slot act = s.answer .range [] := by
  unfold State.onSlot
  split <;> rfl

theorem State.onSlot_none {s : State} {slot : Byte} {h : slot.toNat < 48}
    (hfree : s.engine.slots.get ⟨slot.toNat, h⟩ = none) (act : Slot → Event → State) :
    s.onSlot false slot act = s.answer .noEvent [] := by
  unfold State.onSlot
  simp [h, hfree]

section
variable {c : Instr} {s : State} {bad : Bool} {slot : Byte} {act : State → Slot → Event → State} (h : s.Accepts)
  (hexec : exec c s = .next (submit (requestBytes c) (fun _ u => u.onSlot bad slot (act u)) s))
include h hexec

theorem answers_of_onSlot_high (hhigh : 48 ≤ slot.toNat) : Answers c s .range [] := by
  rw [Answers, ServedAs, exec_served h hexec, State.onSlot_high _ _ hhigh]

theorem answers_of_onSlot_bad (hbad : bad = true) : Answers c s .range [] := by
  rw [Answers, ServedAs, exec_served h hexec, hbad, State.onSlot_bad]

theorem answers_of_onSlot_none (hbad : bad = false) {i : Slot} (hi : slot.toNat = i.val)
    (hfree : s.engine.slots.get i = none) : Answers c s .noEvent [] := by
  obtain ⟨n, hn⟩ := i
  subst hi
  rw [Answers, ServedAs, exec_served h hexec, hbad, State.onSlot_none (by rwa [State.serving_engine])]

theorem servedAs_of_onSlot_some (hbad : bad = false) {i : Slot} (hi : slot.toNat = i.val) {e : Event}
    (he : s.engine.slots.get i = some e) : ServedAs c s fun u => act u i e := by
  obtain ⟨n, hn⟩ := i
  subst hi
  rw [ServedAs, exec_served h hexec, hbad, State.onSlot_some (by rwa [State.serving_engine])]

end

/-! ### READ-DUE (R101) -/

/-- A due entry for each slot and its event. -/
theorem flatMap_dueEntry {slots : Table (Option Event) 48} {list : List Slot} {entries : List (Slot × Event)}
    (h : list.map (fun i => (i, slots.get i)) = entries.map fun p => (p.1, some p.2)) :
    list.length = entries.length ∧ list.flatMap (dueEntry slots) = entries.flatMap fun p =>
      [nat1 p.1.val] ++ nat2 p.2.tag ++
        [nat1 p.2.pendingCount, nat1 (p.2.finished.toNat + 2 * p.2.targetLost.toNat)] ++ nat4 p.2.firstDue := by
  have hlist : list = entries.map Prod.fst := by simpa [Function.comp_def] using congrArg (List.map Prod.fst) h
  subst hlist
  rw [List.map_map, List.map_inj_left] at h
  refine ⟨List.length_map .., ?_⟩
  rw [List.flatMap_map]
  refine List.flatMap_congr fun p hp => ?_
  have hget : slots.get p.1 = some p.2 := (Prod.mk.inj (h p hp)).2
  rw [dueEntry, hget, ← Event.marks_eq]

/-! ### ACK-DUE (R102) -/

theorem Engine.stateCode_of_some {en : Engine} {i : Slot} {e : Event} (h : en.slots.get i = some e) :
    en.stateCode i = e.state.code := by
  rw [Engine.stateCode, h]

theorem Engine.stateCode_of_none {en : Engine} {i : Slot} (h : en.slots.get i = none) : en.stateCode i = 0 := by
  rw [Engine.stateCode, h]

/-- What ACK-DUE does to a DUE event, told by the engine after it. -/
theorem ackDue_served {slot count : Byte} {s : State} (h : s.Accepts) (hcount : count ≠ 0) {i : Slot}
    (hi : slot.toNat = i.val) {e : Event} (he : s.engine.slots.get i = some e) (hdue : e.state = .due) :
    ServedAs (.ackDue slot count) s fun u =>
      { u with engine := u.engine.acknowledge i e count.toNat }.answer .ok
        (nat2 e.tag ++
          [nat1 e.pendingCount, nat1 (e.pendingCount - count.toNat),
            (s.engine.acknowledge i e count.toNat).stateCode i, flag1 e.targetLost]) := by
  have hserved := servedAs_of_onSlot_some (c := .ackDue slot count) h rfl (beq_eq_false_iff_ne.2 hcount) hi he
  rw [ServedAs] at hserved ⊢
  rw [hserved, if_neg (by simp [hdue]), State.serving_engine]

theorem ackDue_served_lowered {slot count : Byte} {s : State} (h : s.Accepts) (hcount : count ≠ 0) {i : Slot}
    (hi : slot.toNat = i.val) {e : Event} (he : s.engine.slots.get i = some e) (hdue : e.state = .due)
    (hlower : count.toNat < e.pendingCount) :
    ServedAs (.ackDue slot count) s fun u =>
      { u with
        engine :=
          { u.engine with
            slots := u.engine.slots.set i (some { e with pendingCount := e.pendingCount - count.toNat }) } }.answer .ok
        (nat2 e.tag ++ [nat1 e.pendingCount, nat1 (e.pendingCount - count.toNat), 2, flag1 e.targetLost]) := by
  have hserved := ackDue_served h hcount hi he hdue
  rw [Engine.acknowledge_lowered hlower, Engine.stateCode_of_some (Table.get_set_same _ _ _), hdue] at hserved
  simp only [Engine.acknowledge_lowered hlower] at hserved
  exact hserved

theorem ackDue_served_last {slot count : Byte} {s : State} (h : s.Accepts) (hcount : count ≠ 0) {i : Slot}
    (hi : slot.toNat = i.val) {e : Event} (he : s.engine.slots.get i = some e) (hdue : e.state = .due)
    (hlast : e.pendingCount ≤ count.toNat) :
    ServedAs (.ackDue slot count) s fun u =>
      { u with
        engine :=
          { u.engine with
            slots :=
              u.engine.slots.set i
                (if e.finished = true then none else some { e with pendingCount := 0, state := .armed })
            dueList := u.engine.dueList.filter fun j => j != i } }.answer .ok
        (nat2 e.tag ++ [nat1 e.pendingCount, 0, if e.finished = true then 0 else 1, flag1 e.targetLost]) := by
  have hserved := ackDue_served h hcount hi he hdue
  have hcode : (s.engine.acknowledge i e count.toNat).stateCode i = if e.finished = true then 0 else 1 := by
    have hget : (s.engine.acknowledge i e count.toNat).slots.get i =
        if e.finished = true then none else some { e with pendingCount := 0, state := .armed } := by
      rw [Engine.acknowledge_last hlast, Table.get_set_same]
    split at hget
    · rw [Engine.stateCode_of_none hget, if_pos ‹_›]
    · rw [Engine.stateCode_of_some hget, if_neg ‹_›]
      rfl
  rw [hcode, Nat.sub_eq_zero_of_le hlast] at hserved
  simp only [Engine.acknowledge_last hlast] at hserved
  exact hserved

/-! ### SET-DUE-THRESHOLD (R104) -/

theorem threshold_eq (threshold : Byte) :
    min 48 (max 1 threshold.toNat) =
      if threshold = 0 then 1 else if 48 < threshold.toNat then 48 else threshold.toNat := by
  split_ifs <;> bv_omega

/-! ### The requests together -/

/-- Settles O35: each request answers in the state in which it is served; those on a slot by the outcomes of
`State.onSlot`. -/
theorem eventRequests : Obligations.EventRequests := by
  refine ⟨⟨fun tag s h hs => ?_, fun slot s h => ⟨fun hhigh => ?_, fun i hi => ⟨fun hfree => ?_, fun e he => ?_⟩⟩,
    fun start s entries h hentries => ?_⟩,
    fun slot count s h => ⟨fun hhigh => ⟨?_, ?_⟩, fun hcount => ?_, fun i hi => ⟨fun hfree => ⟨?_, fun hcount => ?_⟩,
      fun e he => ⟨?_, fun hcount harmed => ?_, fun hcount hdue hlower => ?_, fun hcount hdue hlast => ?_⟩⟩⟩,
    fun threshold s n h hn => ?_⟩
  · obtain ⟨hzero, hnone, hfound⟩ := findEvent_answers h hs
    refine ⟨hzero, hnone, fun i e he htag => ?_⟩
    have hanswer := hfound i e he htag
    rw [EventState.code_eq, Schedule.code_eq] at hanswer
    exact hanswer
  · exact answers_of_onSlot_high (c := .eventInfo slot) h rfl hhigh
  · exact answers_of_onSlot_none (c := .eventInfo slot) h rfl rfl hi hfree
  · have hserved := servedAs_of_onSlot_some (c := .eventInfo slot) h rfl rfl hi he
    simp only [Event.record, nat1_slot hi, EventState.code_eq, Schedule.code_eq, Event.marks_eq, Schedule.record_eq,
      Action.record_eq] at hserved
    exact hserved
  · obtain ⟨hlength, hbytes⟩ := flatMap_dueEntry hentries
    rw [ServedAs, exec_served h rfl]
    simp only [State.serving_engine, hlength, hbytes]
  · exact answers_of_onSlot_high (c := .cancelEvent slot) h rfl hhigh
  · exact answers_of_onSlot_high (c := .ackDue slot count) h rfl hhigh
  · exact answers_of_onSlot_bad (c := .ackDue slot count) h rfl (beq_iff_eq.2 hcount)
  · exact answers_of_onSlot_none (c := .cancelEvent slot) h rfl rfl hi hfree
  · exact answers_of_onSlot_none (c := .ackDue slot count) h rfl (beq_eq_false_iff_ne.2 hcount) hi hfree
  · rw [← EventState.code_eq]
    exact servedAs_of_onSlot_some (c := .cancelEvent slot) h rfl rfl hi he
  · have hserved := servedAs_of_onSlot_some (c := .ackDue slot count) h rfl (beq_eq_false_iff_ne.2 hcount) hi he
    rw [Answers, ServedAs]
    rw [ServedAs] at hserved
    rw [hserved, if_pos harmed]
  · exact ackDue_served_lowered h hcount hi he hdue hlower
  · exact ackDue_served_last h hcount hi he hdue hlast
  · subst hn
    rw [← threshold_eq, ServedAs, exec_served h rfl]
    simp only [State.serving_engine]

end Sys2Proof.Machine

/-! SUPPORT. Voices in good order (R106 to R108, R117, R134): what a request, a sound tick and a frame make of a
voice in good order is in good order. -/

namespace Sys2Proof.Machine

open Sys2Proof

/-! ### The noise register (R133, R134) -/

/-- An advance moves every bit down by one; the feedback enters at the top, and under NOISE-SHORT at bit 6 too
(R133). -/
theorem noiseAdvance_getLsbD (short : Bool) (r : BitVec 15) {k : Nat} (hk : k < 15) :
    (noiseAdvance short r).getLsbD k =
      if k = 14 ∨ (k = 6 ∧ short = true) then r.getLsbD 0 ^^ r.getLsbD 1 else r.getLsbD (k + 1) := by
  have htop : ∀ f : Bool, ∀ k < 15, (if f then 0x4000 else 0 : BitVec 15).getLsbD k = (f && decide (k = 14)) := by
    decide
  have hsix : ∀ f : Bool, ∀ k < 15, (if f then 0x40 else 0 : BitVec 15).getLsbD k = (f && decide (k = 6)) := by decide
  have hrest : ∀ k < 15, (0x7FBF : BitVec 15).getLsbD k = !decide (k = 6) := by decide
  have hempty : r.getLsbD (14 + 1) = false := BitVec.getLsbD_of_ge r 15 (Nat.le_refl _)
  simp only [noiseAdvance]
  generalize (r.getLsbD 0 ^^ r.getLsbD 1) = f
  cases short with
  | false =>
    simp only [Bool.false_eq_true, if_false, and_false, or_false, BitVec.getLsbD_or, BitVec.getLsbD_ushiftRight,
      htop f k hk, Nat.add_comm 1 k]
    grind
  | true =>
    simp only [if_true, and_true, BitVec.getLsbD_or, BitVec.getLsbD_and, BitVec.getLsbD_ushiftRight,
      htop f k hk, hsix f k hk, hrest k hk, Nat.add_comm 1 k]
    grind

/-- How many of the register's low bits the noise goes through: all 15, or 7 under NOISE-SHORT (R133). -/
def noiseBits (short : Bool) : Nat := if short then 7 else 15

/-- The bits the noise goes through are all zeros after an advance only if they were before it: each but the lowest
stands one place lower, and a clear feedback makes the lowest equal to the next (R134). -/
theorem noiseAdvance_low_zero {short : Bool} {r : BitVec 15}
    (h : ∀ k < noiseBits short, (noiseAdvance short r).getLsbD k = false) :
    ∀ k < noiseBits short, r.getLsbD k = false := by
  have hle : noiseBits short ≤ 15 := by cases short <;> decide
  have hshift (k : Nat) (hk : k + 1 < noiseBits short) : r.getLsbD (k + 1) = false := by
    have hbit := h k (by omega)
    rw [noiseAdvance_getLsbD _ _ (by omega), if_neg (by cases short <;> simp [noiseBits] at hk ⊢ <;> omega)] at hbit
    exact hbit
  have hfeed : (r.getLsbD 0 ^^ r.getLsbD 1) = false := by
    cases short
    · exact (noiseAdvance_getLsbD false r (k := 14) (by decide)).symm.trans (h 14 (by decide))
    · exact (noiseAdvance_getLsbD true r (k := 6) (by decide)).symm.trans (h 6 (by decide))
  intro k hk
  cases k with
  | succ k => exact hshift k hk
  | zero =>
    rw [hshift 0 (by cases short <;> decide), Bool.xor_false] at hfeed
    exact hfeed

theorem noise_eq_zero_iff (r : BitVec 15) : r = 0 ↔ ∀ k < 15, r.getLsbD k = false := by
  constructor
  · rintro rfl k -
    simp
  · intro h
    exact BitVec.eq_of_getLsbD_eq fun k hk => by rw [h k hk]; simp

theorem noise_low_eq_zero_iff (r : BitVec 15) : r &&& 0x7F = 0 ↔ ∀ k < 7, r.getLsbD k = false := by
  have hlow : ∀ k < 15, (0x7F : BitVec 15).getLsbD k = decide (k < 7) := by decide
  rw [noise_eq_zero_iff]
  constructor
  · intro h k hk
    have hbit := h k (by omega)
    rwa [BitVec.getLsbD_and, hlow k (by omega), decide_eq_true hk, Bool.and_true] at hbit
  · intro h k hk
    rw [BitVec.getLsbD_and, hlow k hk]
    by_cases hk7 : k < 7
    · rw [h k hk7, Bool.false_and]
    · rw [decide_eq_false hk7, Bool.and_false]

theorem noiseAdvance_ne_zero {r : BitVec 15} (h : r ≠ 0) : noiseAdvance false r ≠ 0 := by
  rw [Ne, noise_eq_zero_iff] at h ⊢
  exact fun hnext => h (noiseAdvance_low_zero (short := false) hnext)

theorem noiseAdvance_low_ne_zero {r : BitVec 15} (h : r &&& 0x7F ≠ 0) : noiseAdvance true r &&& 0x7F ≠ 0 := by
  rw [Ne, noise_low_eq_zero_iff] at h ⊢
  exact fun hnext => h (noiseAdvance_low_zero (short := true) hnext)

/-! ### One voice (R106 to R108, R117) -/

theorem clampPitch_toNat (p : Half) : (clampPitch p).toNat = min 16383 p.toNat := by
  unfold clampPitch
  split
  · exact (Nat.min_eq_left (Nat.le_of_lt ‹_›)).symm
  · exact (Nat.min_eq_right (Nat.le_of_not_lt ‹_›)).symm

/-- A note entry in good order: its pitch step clamped, its length one byte (R108). -/
abbrev Note.Wf (n : Note) : Prop := n.pitch.toNat ≤ Config.maxPitch ∧ n.length ≤ 255

theorem Note.wf_of_noteOf {b : NoteBytes} {n : Note} (h : noteOf b = some n) : n.Wf := by
  simp only [noteOf, Option.map_eq_some_iff] at h
  obtain ⟨t, -, rfl⟩ := h
  exact ⟨(clampPitch_toNat _).trans_le (Nat.min_le_left _ _), Nat.le_of_lt_succ b.length.isLt⟩

/-- Counters and the volume move freely within their ranges. -/
theorem Voice.wf_of_counters {v : Voice} (h : v.Wf) {length pace : Nat} (hlength : length ≤ 255) (hpace : pace ≤ 28)
    (volume : Fin 16) : Voice.Wf { v with lengthCounter := length, paceCounter := pace, volume := volume } := by
  obtain ⟨hqueue, hstarved, hidle, hmark, hspent, -, -, hrest⟩ := h
  exact ⟨hqueue, hstarved, hidle, hmark, hspent, hlength, hpace, hrest⟩

theorem Voice.envelope_wf {v : Voice} (h : v.Wf) : v.envelope.Wf := by
  obtain ⟨-, -, -, -, -, hlength, hpace, -⟩ := id h
  unfold Voice.envelope
  split
  · exact h
  · split
    · exact h
    · split
      · exact Voice.wf_of_counters h hlength (by omega) _
      · exact Voice.wf_of_counters h hlength (by omega) _

theorem Voice.lengthStep_wf {v : Voice} (h : v.Wf) : v.lengthStep.1.Wf := by
  obtain ⟨-, -, -, -, -, hlength, hpace, -⟩ := id h
  obtain heq | heq := v.lengthStep_keeps <;> rw [heq]
  · exact h
  · exact Voice.wf_of_counters h (Nat.le_trans (Nat.sub_le _ _) hlength) hpace _

theorem Voice.lengthStep_current (v : Voice) : v.lengthStep.1.current = v.current := by
  obtain heq | heq := v.lengthStep_keeps <;> rw [heq]

theorem Voice.lengthStep_startMark (v : Voice) : v.lengthStep.1.startMark = v.startMark := by
  obtain heq | heq := v.lengthStep_keeps <;> rw [heq]

/-- The head of a queue becomes current with its register all ones under a noise timbre (R116). -/
theorem Voice.becomeCurrent_noiseWf {v : Voice} (h : v.NoiseWf) (n : Note) (rest : List Note) :
    (v.becomeCurrent n rest).NoiseWf := by
  simp only [Voice.NoiseWf, Voice.becomeCurrent, Option.mem_some_iff, forall_eq']
  split
  · exact ⟨by decide, fun _ => by decide⟩
  · exact ⟨h.1, fun hshort => absurd (Or.inr hshort) ‹_›⟩

theorem Voice.takeNext_wf {v : Voice} (h : v.Wf) (hmark : v.startMark = false) : v.takeNext.voice.Wf := by
  obtain ⟨hqueue, -, -, -, -, hlength, hpace, hrefill, hnotes, hcurrent, hnoise⟩ := h
  unfold Voice.takeNext
  split
  next n rest heq =>
    rw [heq] at hqueue hnotes
    obtain ⟨hn, hrest⟩ := List.forall_mem_cons.1 hnotes
    refine ⟨Nat.le_of_succ_le hqueue, nofun, nofun, fun hset => ?_, nofun, hn.2, ?_, hrefill, hrest, ?_,
      Voice.becomeCurrent_noiseWf hnoise n rest⟩
    · exact absurd (hmark.symm.trans hset) Bool.false_ne_true
    · simp only [Voice.becomeCurrent]
      omega
    · rintro _ ⟨⟩
      exact hn
  next heq =>
    exact ⟨hqueue, fun _ => heq, nofun, fun hset => absurd (hmark.symm.trans hset) Bool.false_ne_true, id, hlength,
      hpace, hrefill, hnotes, hcurrent, hnoise⟩

theorem Voice.wf_of_startMark {v : Voice} (h : v.Wf) {mark : Bool} (hmark : mark = true → v.state = .idle) :
    Voice.Wf { v with startMark := mark } := by
  obtain ⟨hqueue, hstarved, hidle, -, hrest⟩ := h
  exact ⟨hqueue, hstarved, hidle, hmark, hrest⟩

/-- Only an IDLE voice has a start mark (R111). -/
theorem Voice.startMark_of_playing {v : Voice} (h : v.Wf) (hplaying : v.state = .playing) : v.startMark = false := by
  obtain ⟨-, -, -, hmark, -⟩ := h
  exact Bool.eq_false_iff.2 fun hset => nomatch hplaying.symm.trans (hmark hset)

theorem Voice.progress_wf {v : Voice} (h : v.Wf) : v.progress.voice.Wf := by
  unfold Voice.progress
  split
  next =>
    split
    · exact Voice.takeNext_wf (Voice.wf_of_startMark h nofun) rfl
    · exact h
  next => exact h
  next => exact Voice.envelope_wf h
  next hplaying =>
    have hstepped : v.lengthStep.1.envelope.Wf := Voice.envelope_wf (Voice.lengthStep_wf h)
    have hmark : v.lengthStep.1.envelope.startMark = false := by
      obtain ⟨-, -, -, -, -, -, -, heq, -⟩ := v.lengthStep.1.envelope_keeps
      rw [heq, Voice.lengthStep_startMark, Voice.startMark_of_playing h hplaying]
    dsimp only
    split
    · exact Voice.takeNext_wf hstepped hmark
    · exact hstepped

theorem Voice.moving_eq_some {v : Voice} {n : Note} (h : v.moving = some n) : v.current = some n := by
  unfold Voice.moving at h
  split at h
  · exact h
  · exact h
  · cases h
  · cases h

theorem Voice.advance_noiseWf {v : Voice} (h : v.NoiseWf) : v.advance.NoiseWf := by
  obtain ⟨hnoise, hshort⟩ := h
  unfold Voice.advance
  split
  next => exact ⟨hnoise, hshort⟩
  next n hmoving =>
    have hcurrent : v.current = some n := Voice.moving_eq_some hmoving
    simp only [hcurrent, Option.mem_some_iff, forall_eq'] at hshort
    simp only [Voice.NoiseWf, hcurrent, Option.mem_some_iff, forall_eq']
    split
    next htimbre _ => exact ⟨noiseAdvance_ne_zero hnoise, by simp [htimbre]⟩
    next htimbre _ =>
      have hlow := noiseAdvance_low_ne_zero (hshort htimbre)
      exact ⟨fun hzero => hlow (by rw [hzero]; decide), fun _ => hlow⟩
    next => exact ⟨hnoise, hshort⟩

theorem Voice.advance_wf {v : Voice} (h : v.Wf) : v.advance.Wf := by
  obtain ⟨hstate, hqueue, hcurrent, hspent, hlength, hpace, -, hmark, -, -, hrefill⟩ := v.advance_keeps
  simp only [Voice.Wf, hstate, hqueue, hcurrent, hspent, hlength, hpace, hmark, hrefill]
  obtain ⟨hqueue, hstarved, hidle, hmark, hspent, hlength, hpace, hrefill, hnotes, hcurrent, hnoise⟩ := h
  exact ⟨hqueue, hstarved, hidle, hmark, hspent, hlength, hpace, hrefill, hnotes, hcurrent,
    Voice.advance_noiseWf hnoise⟩

/-! ### What the requests make of a voice (R109 to R114) -/

/-- A voice that is not IDLE may take another state but IDLE, a STARVED one with its queue empty. -/
theorem Voice.wf_of_state {v : Voice} (h : v.Wf) {state : VoiceState} (hbefore : v.state ≠ .idle)
    (hafter : state ≠ .idle) (hstarved : state.starvedNow = true → v.queue = []) :
    Voice.Wf { v with state := state } := by
  obtain ⟨hqueue, -, -, hmark, hrest⟩ := h
  exact ⟨hqueue, hstarved, fun heq => absurd heq hafter, fun hset => absurd (hmark hset) hbefore, hrest⟩

theorem VoiceState.canHold_some {state : VoiceState} {prior : PriorState} (h : state.canHold = some prior) :
    state ≠ .idle ∧ (VoiceState.held prior).starvedNow = state.starvedNow := by
  cases state <;> cases h <;> exact ⟨nofun, rfl⟩

theorem VoiceState.released_some {state after : VoiceState} (h : state.released = some after) :
    state ≠ .idle ∧ after ≠ .idle ∧ after.starvedNow = state.starvedNow := by
  unfold VoiceState.released at h
  split at h <;> cases h <;> exact ⟨nofun, nofun, rfl⟩

theorem Voice.hold_wf {v : Voice} (h : v.Wf) : v.hold.Wf := by
  obtain ⟨-, hstarved, -⟩ := id h
  unfold Voice.hold
  split
  next prior heq =>
    obtain ⟨hidle, hsame⟩ := VoiceState.canHold_some heq
    exact Voice.wf_of_state h hidle nofun (hsame ▸ hstarved)
  next => exact h

theorem Voice.release_wf {v : Voice} (h : v.Wf) : v.release.Wf := by
  obtain ⟨-, hstarved, -⟩ := id h
  unfold Voice.release
  split
  next state heq =>
    obtain ⟨hidle, hafter, hsame⟩ := VoiceState.released_some heq
    exact Voice.wf_of_state h hidle hafter (hsame ▸ hstarved)
  next => exact h

theorem Voice.stop_wf {v : Voice} (h : v.Wf) : v.stop.Wf := by
  obtain ⟨-, -, -, -, -, hlength, hpace, hrefill, -, -, hnoise, -⟩ := h
  exact ⟨Nat.zero_le _, fun _ => rfl, fun _ => ⟨rfl, rfl⟩, nofun, nofun, hlength, hpace, hrefill, nofun, nofun, hnoise,
    nofun⟩

/-- A voice an entry has joined is not STARVED, nor held as STARVED (R110). -/
theorem VoiceState.fed_starvedNow (state : VoiceState) : state.fed.starvedNow = false := by
  cases state <;> rfl

theorem VoiceState.fed_eq_idle {state : VoiceState} : state.fed = .idle ↔ state = .idle := by
  cases state <;> simp [VoiceState.fed]

theorem Voice.enqueue_wf {v : Voice} (h : v.Wf) {notes : List Note} (hnew : ∀ n ∈ notes, n.Wf) :
    (v.enqueue notes).Wf := by
  have hlength := Voice.enqueue_length h.1 notes
  obtain ⟨hqueue, hstarved, hidle, hmark, hspent, hcount, hpace, hrefill, hnotes, hrest⟩ := h
  refine ⟨by omega, ?_, ?_, ?_, hspent, hcount, hpace, hrefill, ?_, hrest⟩
  · simp only [Voice.enqueue]
    split
    next hnone =>
      rw [List.isEmpty_iff.1 hnone, List.append_nil]
      exact hstarved
    next =>
      rw [VoiceState.fed_starvedNow]
      exact nofun
  · simp only [Voice.enqueue]
    split
    · exact hidle
    · exact fun hfed => hidle (VoiceState.fed_eq_idle.1 hfed)
  · simp only [Voice.enqueue]
    split
    · exact hmark
    · exact fun hset => VoiceState.fed_eq_idle.2 (hmark hset)
  · simp only [Voice.enqueue, List.forall_mem_append]
    exact ⟨hnotes, fun n hn => hnew n (List.mem_of_mem_take hn)⟩

theorem refillOf_range (b : Byte) : refillOf b = 0 ∨ refillOf b = 4 ∨ refillOf b = 8 ∨ refillOf b = 12 := by
  unfold refillOf
  omega

theorem Voice.wf_of_settings {v : Voice} (h : v.Wf) (group : Group) (conditioning : Conditioning) (refill : Byte) :
    Voice.Wf { v with group := group, conditioning := conditioning, refill := refillOf refill } := by
  obtain ⟨hqueue, hstarved, hidle, hmark, hspent, hlength, hpace, -, hrest⟩ := h
  exact ⟨hqueue, hstarved, hidle, hmark, hspent, hlength, hpace, refillOf_range refill, hrest⟩

end Sys2Proof.Machine

/-! The good order of the sound engine (O48): what every command keeps of the voices, the marker list, the master
volume and the clipped-frame count. -/

namespace Sys2Proof.Machine

open Sys2Proof

/-! ### The engine's own operations -/

theorem Sound.wf_of_voices {so : Sound} (h : so.Wf) {voices : Table Voice 8} (hvoices : ∀ i, (voices.get i).Wf) :
    Sound.Wf { so with voices := voices } := ⟨hvoices, h.2⟩

theorem Sound.wf_of_master {so : Sound} (h : so.Wf) {master : Nat} {saved : Option Nat}
    (hmaster : master ≤ Config.maxMaster) (hsaved : ∀ m ∈ saved, m ≤ Config.maxMaster) :
    Sound.Wf { so with master := master, savedMaster := saved } := by
  obtain ⟨hvoices, hmarkers, -, -, hclipped⟩ := h
  exact ⟨hvoices, hmarkers, hmaster, hsaved, hclipped⟩

theorem Sound.setVoice_wf {so : Sound} (h : so.Wf) {v : VoiceNo} {voice : Voice} (hvoice : voice.Wf) :
    (so.setVoice v voice).Wf :=
  Sound.wf_of_voices h fun i => by
    rw [Table.get_set]
    split
    · exact hvoice
    · exact h.1 i

theorem Sound.onMask_wf {so : Sound} (h : so.Wf) {mask : Byte} {f : Voice → Voice}
    (hf : ∀ v : Voice, v.Wf → (f v).Wf) :
    (so.onMask mask f).Wf :=
  Sound.wf_of_voices h fun i => by
    rw [Table.get_tabulate]
    split
    · exact hf _ (h.1 i)
    · exact h.1 i

theorem Sound.afterFrame_wf {so : Sound} (h : so.Wf) (format : SlotFormat) : (so.afterFrame format).Wf := by
  obtain ⟨hvoices, hmarkers, hmaster, hsaved, hclipped⟩ := h
  refine ⟨fun i => ?_, hmarkers, hmaster, hsaved, Sound.afterFrame_clipped hclipped format⟩
  rw [Sound.afterFrame, Table.get_map]
  exact Voice.advance_wf (hvoices i)

theorem Sound.progression_wf {so : Sound} (h : so.Wf) : so.progression.Wf := by
  obtain ⟨hvoices, hmarkers, hrest⟩ := h
  refine ⟨fun i => ?_, Sound.deliver_length hmarkers _, hrest⟩
  rw [Sound.progression, Sound.deliver, Table.get_map]
  exact Voice.progress_wf (hvoices i)

theorem Sound.fadeStep_wf {so : Sound} (h : so.Wf) (fading : Bool) : (so.fadeStep fading).Wf := by
  obtain ⟨-, -, hmaster, hsaved, -⟩ := id h
  unfold Sound.fadeStep
  split
  · exact Sound.wf_of_master h (Nat.le_trans (Nat.sub_le _ _) hmaster) hsaved
  · exact h

theorem Sound.softReset_wf {so : Sound} (h : so.Wf) : so.softReset.Wf := by
  obtain ⟨hvoices, -, hrest⟩ := h
  refine ⟨fun i => ?_, Nat.zero_le _, hrest⟩
  rw [Sound.softReset, Table.get_map]
  exact Voice.stop_wf (hvoices i)

theorem Sound.reset_wf : Sound.reset.Wf := by
  refine ⟨fun i => ?_, by decide⟩
  rw [Sound.reset, Table.get_fill]
  exact Voice.reset_wf

/-! ### Sound ticks and frames (R115, R127, R143) -/

/-- The sound engine of a state in good order. -/
def State.SoundWf (s : State) : Prop := s.sound.Wf

theorem State.soundWf_of_eq {s t : State} (h : s.SoundWf) (heq : t.sound = s.sound) : t.SoundWf := by
  rwa [State.SoundWf, heq]

theorem State.frame_soundWf {s : State} (h : s.SoundWf) : s.frame.SoundWf := Sound.afterFrame_wf h _

theorem State.soundTick_soundWf {s : State} (h : s.SoundWf) : s.soundTick.SoundWf :=
  State.frame_soundWf (Sound.fadeStep_wf (Sound.progression_wf h) s.fading)

theorem State.settleTick_soundWf {s : State} (h : s.SoundWf) : s.settleTick.SoundWf := by
  unfold State.settleTick
  split
  · exact State.soundTick_soundWf h
  · exact h

theorem State.frameEvent_soundWf {s : State} (h : s.SoundWf) : s.frameEvent.SoundWf := by
  simp only [State.frameEvent]
  split
  · exact State.frame_soundWf h
  · exact h

theorem State.frameInstant_soundWf {s : State} (h : s.SoundWf) : s.frameInstant.SoundWf := by
  unfold State.frameInstant
  split
  · exact State.frameEvent_soundWf (State.settleTick_soundWf h)
  · exact h
  · exact h

theorem State.ownInstant_soundWf {s : State} (h : s.SoundWf) (due : Instant) : (s.ownInstant due).SoundWf :=
  State.frameInstant_soundWf h

theorem State.toOwnTiming_soundWf {s : State} (h : s.SoundWf) (now : Instant) (after : Link) :
    (s.toOwnTiming now after).SoundWf := by
  unfold State.toOwnTiming
  split
  · split
    · exact State.ownInstant_soundWf (s := { s with link := after }) h now
    · exact h
  · exact h

theorem State.setLink_soundWf {s : State} (h : s.SoundWf) (mode : LinkMode) (format : SlotFormat) (offset : Fin 4)
    (now : Instant) : (s.setLink mode format offset now).SoundWf := by
  simp only [State.setLink]
  split
  · exact h
  · exact State.toOwnTiming_soundWf h now _

theorem State.enterSlave_soundWf {s : State} (h : s.SoundWf) (arrival : Instant) : (s.enterSlave arrival).SoundWf := by
  simp only [State.enterSlave]
  split
  · split
    · exact h
    · exact State.frameInstant_soundWf h
  · exact State.frameInstant_soundWf h

theorem State.strobeAlongside_soundWf {s : State} (h : s.SoundWf) (elapsed : Nat) (arrival : Instant) :
    (s.strobeAlongside elapsed arrival).SoundWf := by
  unfold State.strobeAlongside
  split
  · exact h
  · exact h
  · split
    · exact h
    · exact State.enterSlave_soundWf h arrival

theorem State.strobeInSlave_soundWf {s : State} (h : s.SoundWf) (elapsed : Nat) (arrival : Instant) :
    (s.strobeInSlave elapsed arrival).SoundWf := by
  unfold State.strobeInSlave
  split
  · exact h
  · exact State.frameInstant_soundWf h

/-! ### Resets, readings and the wake -/

theorem State.softResetSound_soundWf {s : State} (h : s.SoundWf) : s.softResetSound.SoundWf := Sound.softReset_wf h

theorem State.softResetLink_soundWf {s : State} (h : s.SoundWf) (now : Instant) : (s.softResetLink now).SoundWf :=
  State.toOwnTiming_soundWf h now _

/-- Sound engine and link take their parts of a SOFT-RESET in either order (R189; log 14). -/
theorem State.softReset_soundWf {s : State} (h : s.SoundWf) (now : Instant) : (s.softReset now).SoundWf := by
  have hsoundFirst := State.softResetLink_soundWf (State.softResetSound_soundWf h) now
  have hlinkFirst := State.softResetSound_soundWf (State.softResetLink_soundWf h now)
  show (s.softResetSoundAndLink now).SoundWf
  unfold State.softResetSoundAndLink
  split
  · split
    · exact hlinkFirst
    · exact hsoundFirst
  · exact hsoundFirst

theorem State.takeReading_soundWf {s : State} (h : s.SoundWf) (r : Reading) : (s.takeReading r).SoundWf := by
  obtain ⟨-, -, heq⟩ | ⟨-, -, heq⟩ | ⟨-, -, heq⟩ | ⟨-, -, heq⟩ := s.takeReading_cases r <;> rw [heq]
  · exact h
  · exact Sound.reset_wf
  · exact h
  · exact Sound.reset_wf

/-- A wake restores a saved master volume, which is in range (R138). -/
theorem State.wake_soundWf {s : State} (h : s.SoundWf) : s.wake.SoundWf := by
  obtain ⟨-, -, hmaster, hsaved, -⟩ := id h
  unfold State.wake
  split
  · refine Sound.wf_of_master h ?_ nofun
    cases hm : s.sound.savedMaster with
    | none => exact hmaster
    | some m => exact hsaved m hm
  · exact h
  · exact h

/-! ### Every command -/

theorem submit_soundWf {s : State} (h : s.SoundWf) {bytes : List Byte} {act : Bool → State → State}
    (hact : ∀ woke u, u.SoundWf → (act woke u).SoundWf) : (submit bytes act s).SoundWf :=
  submit_cases (P := State.SoundWf) h h fun _ woke => hact woke _ (State.wake_soundWf h)

/-- The entries of QUEUE-NOTES are in good order (R108). -/
theorem wf_of_mem_filterMap_noteOf {entries : List NoteBytes} : ∀ n ∈ entries.filterMap noteOf, n.Wf := by
  intro n hn
  obtain ⟨b, -, hb⟩ := List.mem_filterMap.1 hn
  exact Note.wf_of_noteOf hb

theorem exec_soundWf {c : Instr} {s t : State} (hs : s.SoundWf) (h : exec c s = .next t) : t.SoundWf := by
  cases c
  case softReset now =>
    cases h
    exact submit_soundWf hs fun _ u hu => State.softReset_soundWf hu now
  case quiesce =>
    cases h
    refine submit_soundWf hs fun _ u hu => ?_
    split
    · exact hu
    · obtain ⟨-, -, hmaster, -⟩ := id hu
      refine Sound.wf_of_master hu hmaster ?_
      rintro _ ⟨⟩
      exact hmaster
  case loadWave =>
    cases h
    refine submit_soundWf hs fun _ u hu => ?_
    split <;> exact hu
  case setVoice voice group conditioning refill =>
    cases h
    refine submit_soundWf hs fun _ u hu => ?_
    split
    · split
      · exact hu
      · exact Sound.setVoice_wf hu (Voice.wf_of_settings (hu.1 _) _ _ refill)
    · exact hu
  case queueNotes =>
    cases h
    refine submit_soundWf hs fun _ u hu => ?_
    split
    · split
      · exact hu
      · dsimp only
        split
        · exact hu
        · exact Sound.setVoice_wf hu (Voice.enqueue_wf (hu.1 _) wf_of_mem_filterMap_noteOf)
    · exact hu
  case startVoices =>
    cases h
    refine submit_soundWf hs fun _ u hu => Sound.onMask_wf hu fun v hv => ?_
    split
    · exact Voice.wf_of_startMark hv fun _ => ‹_›
    · exact hv
  case holdVoices =>
    cases h
    exact submit_soundWf hs fun _ u hu => Sound.onMask_wf hu fun _ => Voice.hold_wf
  case releaseVoices =>
    cases h
    exact submit_soundWf hs fun _ u hu => Sound.onMask_wf hu fun _ => Voice.release_wf
  case stopVoices =>
    cases h
    exact submit_soundWf hs fun _ u hu => Sound.onMask_wf hu fun _ => Voice.stop_wf
  case setMaster volume =>
    cases h
    refine submit_soundWf hs fun _ u hu => ?_
    obtain ⟨-, -, -, hsaved, -⟩ := id hu
    exact Sound.wf_of_master hu (Nat.min_le_left _ _) hsaved
  case readVoices =>
    cases h
    refine submit_soundWf hs fun _ u hu => ?_
    obtain ⟨hvoices, hmarkers, hmaster, hsaved, -⟩ := hu
    exact ⟨hvoices, hmarkers, hmaster, hsaved, Nat.zero_le _⟩
  case readMarkers =>
    cases h
    refine submit_soundWf hs fun _ u hu => ?_
    obtain ⟨hvoices, -, hrest⟩ := hu
    exact ⟨hvoices, Nat.zero_le _, hrest⟩
  case setLink =>
    cases h
    refine submit_soundWf hs fun _ u hu => ?_
    split
    · split
      · exact hu
      · exact State.setLink_soundWf hu _ _ _ _
    · exact hu
  case cue =>
    cases h
    split <;> exact hs
  case frameInstant =>
    cases h
    split
    · split
      · exact State.ownInstant_soundWf hs _
      · exact State.ownInstant_soundWf hs _
      · exact hs
    · split <;> exact hs
  case fsiStrobe arrival =>
    cases h
    split
    · split
      · exact hs
      · split
        · exact State.strobeInSlave_soundWf hs _ arrival
        · exact State.strobeAlongside_soundWf hs _ arrival
        · exact State.strobeAlongside_soundWf hs _ arrival
    · exact hs
  case substitution =>
    cases h
    split
    · split
      · exact State.frameInstant_soundWf hs
      · exact hs
    · exact hs
  case soundTick =>
    cases h
    split
    · exact State.soundTick_soundWf hs
    · exact hs
  case minuteEvent =>
    cases h
    split
    · exact hs
    · dsimp only
      split
      · exact hs
      · split
        · exact hs
        · exact State.takeReading_soundWf (by exact hs) _
  case supplyReading | wakeEvent =>
    cases h
    split
    · exact State.takeReading_soundWf (by exact hs) _
    · exact hs
  case consoleReset =>
    cases h
    dsimp only
    split
    · exact Sound.reset_wf
    · exact hs
  case keepDomainStop | cellReset =>
    cases h
    exact Sound.reset_wf
  all_goals
    obtain heq | heq := exec_keeps_sound rfl h
    · exact State.soundWf_of_eq hs heq
    · exact State.soundWf_of_eq (State.wake_soundWf hs) heq

/-- Settles O48: each command's effect on the sound engine is made of its own operations, and each keeps the good
order. -/
theorem soundWfKept : Obligations.SoundWfKept := fun _ _ hs h =>
  step_keeps (P := State.SoundWf) (fun _ _ => id) (fun _ _ _ => exec_soundWf) hs h

end Sys2Proof.Machine

/-! The requests on voices, waves and the master volume: QUEUE-NOTES (O41), the settings and readers (O42), and the
requests on a mask of voices (O43). -/

namespace Sys2Proof.Machine

open Sys2Proof

/-! ### The voices a request is served with -/

@[simp] theorem State.serving_voices (c : Instr) (s : State) : (s.serving c).sound.voices = s.sound.voices := by
  simp only [State.serving, State.taken_sound, State.wake]
  split <;> rfl

@[simp] theorem State.serving_buffer (c : Instr) (s : State) : (s.serving c).window.buffer = s.window.buffer := by
  simp [State.serving]

/-! ### Masks of voices -/

/-- A mask over the voices holds its condition at each bit. -/
theorem getLsbD_maskOf (p : Fin 8 → Bool) (v : Fin 8) : (maskOf p).getLsbD v.val = p v := by
  rw [maskOf, BitVec.getLsbD_ofBoolListLE]
  fin_cases v <;> rfl

/-- A mask is told by its bits. -/
theorem eq_maskOf {mask : Byte} {p : Fin 8 → Bool} (h : ∀ v : Fin 8, mask.getLsbD v.val = p v) : mask = maskOf p :=
  BitVec.eq_of_getLsbD_eq fun i hi => (h ⟨i, hi⟩).trans (getLsbD_maskOf p ⟨i, hi⟩).symm

/-! ### Note entries (R108, 11.4) -/

theorem timbreOf_eq_none {b : Byte} : timbreOf b = none ↔ b = 7 ∨ 16 ≤ b.toNat := by
  unfold timbreOf
  split_ifs <;> simp only [true_iff, false_iff] <;> bv_omega

theorem Timbre.code_of_timbreOf {b : Byte} {t : Timbre} (h : timbreOf b = some t) : t.code = b := by
  unfold timbreOf at h
  split_ifs at h with h0 h1 h2 h3 h4 h5 h6 hwave <;> cases h
  exacts [h0.symm, h1.symm, h2.symm, h3.symm, h4.symm, h5.symm, h6.symm,
    (congrArg nat1 (Nat.add_sub_cancel' hwave.1)).trans (nat1_toNat b)]

theorem noteOf_eq_none {b : NoteBytes} : noteOf b = none ↔ timbreOf b.timbre = none := by
  simp [noteOf]

/-- A bit field of a byte, as a number. -/
theorem toFin_extractLsb' (b : Byte) (start width : Nat) :
    ((b.extractLsb' start width).toFin).val = b.toNat / 2 ^ start % 2 ^ width := by
  rw [BitVec.val_toFin, BitVec.extractLsb'_toNat, Nat.shiftRight_eq_div_pow]

/-- A bit of a byte, by division. -/
theorem getLsbD_iff (b : Byte) (i : Nat) : b.getLsbD i = true ↔ b.toNat / 2 ^ i % 2 = 1 := by
  rw [BitVec.getLsbD, Nat.testBit_eq_decide_div_mod_eq, decide_eq_true_iff]

/-- The fields of a note entry in the layout of 11.4. -/
theorem noteOf_fields {b : NoteBytes} {n : Note} (h : noteOf b = some n) :
    n.timbre.code = b.timbre ∧ n.pitch.toNat = min 16383 b.pitch.toNat ∧ n.length = b.length.toNat ∧
      n.startVolume.val = b.envelope.toNat / 16 ∧ (n.envelopeUp = true ↔ b.envelope.toNat / 8 % 2 = 1) ∧
      n.pace.val = b.envelope.toNat % 8 ∧ n.left.val = b.pan.toNat / 64 ∧ n.right.val = b.pan.toNat / 16 % 4 ∧
      n.marker = (if b.marker = 0 then none else some b.marker) ∧
      (b.cue.toNat < 128 → n.cue = none) ∧
      (128 ≤ b.cue.toNat → ∃ q, n.cue = some q ∧ q.pattern.val = b.cue.toNat % 16 ∧
        q.priority.val = b.cue.toNat / 16 % 4) := by
  simp only [noteOf, Option.map_eq_some_iff] at h
  obtain ⟨t, ht, rfl⟩ := h
  have henvelope := b.envelope.isLt
  have hpan := b.pan.isLt
  have hcue := b.cue.isLt
  have hcueBit := getLsbD_iff b.cue 7
  have hfield := toFin_extractLsb'
  exact ⟨Timbre.code_of_timbreOf ht, clampPitch_toNat _, rfl, (hfield ..).trans (by omega), getLsbD_iff _ 3,
    (hfield ..).trans (by omega), (hfield ..).trans (by omega), (hfield ..).trans (by omega), rfl,
    fun hnone => if_neg fun hbit => by have := hcueBit.1 hbit; omega,
    fun hsome => ⟨_, if_pos (hcueBit.2 (by omega)), (hfield ..).trans (by omega), (hfield ..).trans (by omega)⟩⟩

/-! ### QUEUE-NOTES (R109, R110) -/

/-- The first entry that is none is the one named. -/
theorem badEntry_append {position : Nat} {good rest : List NoteBytes} {bad : NoteBytes}
    (hgood : ∀ b ∈ good, noteOf b ≠ none) (hbad : noteOf bad = none) :
    badEntry position (good ++ bad :: rest) = some (position + good.length) := by
  induction good generalizing position with
  | nil => simp [badEntry, noteOf_eq_none.1 hbad]
  | cons b good ih =>
    obtain ⟨hb, hgood⟩ := List.forall_mem_cons.1 hgood
    rw [Ne, noteOf_eq_none] at hb
    rw [List.cons_append, badEntry, if_neg (by simpa using hb), ih hgood, List.length_cons]
    congr 1
    omega

theorem badEntry_eq_none {position : Nat} {bytes : List NoteBytes} (h : ∀ b ∈ bytes, noteOf b ≠ none) :
    badEntry position bytes = none := by
  induction bytes generalizing position with
  | nil => rfl
  | cons b bytes ih =>
    obtain ⟨hb, hrest⟩ := List.forall_mem_cons.1 h
    rw [Ne, noteOf_eq_none] at hb
    rw [badEntry, if_neg (by simpa using hb), ih hrest]

/-- Bytes that all carry entries: none is refused, and the entries are those carried. -/
theorem entries_of_map_noteOf {bytes : List NoteBytes} {entries : List Note}
    (h : bytes.map noteOf = entries.map some) :
    badEntry 1 bytes = none ∧ bytes.filterMap noteOf = entries := by
  constructor
  · refine badEntry_eq_none fun b hb hnone => ?_
    have hmem : none ∈ entries.map some := h ▸ hnone ▸ List.mem_map_of_mem hb
    simp at hmem
  · calc bytes.filterMap noteOf
        = (bytes.map noteOf).filterMap id := by rw [List.filterMap_map, Function.id_comp]
      _ = (entries.map some).filterMap id := by rw [h]
      _ = entries := by rw [List.filterMap_map, Function.id_comp, List.filterMap_some]

/-- The voice after an arrival, in the words of R109 and R110. -/
theorem Voice.enqueue_eq (v : Voice) (notes : List Note) :
    v.enqueue notes =
      { v with
        queue := v.queue ++ notes.take (16 - v.queue.length)
        state := if notes.take (16 - v.queue.length) = [] then v.state else v.state.fed } := by
  simp only [Voice.enqueue, List.isEmpty_iff]
  rfl

section

variable {voice count : Byte} {n1 n2 n3 : NoteBytes} {s : State} (h : s.Accepts)
include h

theorem queueNotes_refused (hbad : 7 < voice.toNat ∨ count = 0 ∨ 3 < count.toNat) :
    Answers (.queueNotes voice count n1 n2 n3) s .range [] := by
  rw [Answers, ServedAs, exec_served h rfl]
  dsimp only
  split
  · rw [if_pos (by bv_omega)]
  · rfl

variable {v : VoiceNo} (hv : voice.toNat = v.val) (hcount : count ≠ 0) (hmost : count.toNat ≤ 3)
include hv hcount hmost

/-- A QUEUE-NOTES that names a voice and one to three entries, one of which carries none. -/
theorem queueNotes_bad {position : Nat} (hbad : badEntry 1 ([n1, n2, n3].take count.toNat) = some position) :
    Answers (.queueNotes voice count n1 n2 n3) s .range [nat1 position] := by
  rw [Answers, ServedAs, exec_served h rfl, dif_pos (by omega), if_neg (by bv_omega)]
  dsimp only
  rw [hbad]

/-- A QUEUE-NOTES that names a voice and one to three entries, all of which carry one. -/
theorem queueNotes_joins {entries : List Note} {after : Voice}
    (hentries : ([n1, n2, n3].take count.toNat).map noteOf = entries.map some)
    (hafter : (s.sound.voices.get v).enqueue entries = after) :
    ServedAs (.queueNotes voice count n1 n2 n3) s fun u =>
      { u with sound := u.sound.setVoice v after }.answer
        (if after.queue.length = (s.sound.voices.get v).queue.length + count.toNat then .ok else .part)
        [voice, nat1 (after.queue.length - (s.sound.voices.get v).queue.length), nat1 after.queue.length,
          after.state.code] := by
  obtain ⟨hgood, hnotes⟩ := entries_of_map_noteOf hentries
  obtain ⟨i, hi⟩ := v
  subst hv hafter
  rw [ServedAs, exec_served h rfl, dif_pos hi, if_neg (by bv_omega)]
  dsimp only
  rw [hgood]
  simp only [hnotes, State.serving_voices]

end

/-- Settles O41: the timbre table and the layout of an entry; then the refusals of QUEUE-NOTES, and the arrival. -/
theorem queueNotesAppends : Obligations.QueueNotesAppends := by
  refine ⟨⟨rfl, fun _ => rfl, fun b => noteOf_eq_none.trans timbreOf_eq_none, fun _ _ => noteOf_fields⟩,
    fun voice count n1 n2 n3 s h => ⟨queueNotes_refused h, ?_, ?_⟩⟩
  · intro hvoice hcount hmost good bad rest hbytes hgood hbad
    have hfirst := badEntry_append (position := 1) (rest := rest) hgood hbad
    rw [← hbytes, Nat.add_comm] at hfirst
    exact queueNotes_bad (v := ⟨voice.toNat, by omega⟩) h rfl hcount hmost hfirst
  · rintro v _ after entries _ hv hcount hmost hentries rfl rfl hafter
    have henqueue : (s.sound.voices.get v).enqueue entries = after :=
      (Voice.enqueue_eq _ _).trans hafter.symm
    have hlength : after.queue.length = (s.sound.voices.get v).queue.length +
        (entries.take (16 - (s.sound.voices.get v).queue.length)).length := by
      rw [hafter, List.length_append]
    have hserved := queueNotes_joins h hv hcount hmost hentries henqueue
    rw [hlength, Nat.add_sub_cancel_left] at hserved
    simp only [Nat.add_left_cancel_iff] at hserved
    rw [← hlength] at hserved
    exact hserved

/-! ### Settings and readers (R114, R121, R123, R132, R137) -/

theorem Group.code_of_byte {b : Byte} (h : b.toNat ≤ 1) : (if b = 0 then Group.a else .b).code = b := by
  split
  · exact Eq.symm ‹b = 0›
  · show 1 = b
    bv_omega

theorem Conditioning.code_of_byte {b : Byte} (h : b.toNat ≤ 1) :
    (if b = 0 then Conditioning.silence else .hold).code = b := by
  split
  · exact Eq.symm ‹b = 0›
  · show 1 = b
    bv_omega

theorem refillOf_eq (b : Byte) : refillOf b = if 12 ≤ b.toNat then 12 else b.toNat / 4 * 4 := by
  unfold refillOf
  split <;> omega

theorem Area.byteAt_eq {n : Nat} (t : Table Byte n) (i : Fin n) : Area.byteAt t i.val = t.get i := by
  rw [Area.byteAt, List.getElem?_eq_getElem (t.size.symm ▸ i.isLt)]
  rfl

theorem VoiceState.code_eq (state : VoiceState) :
    state.code = match state with | .idle => 0 | .playing => 1 | .starved => 2 | .held _ => 3 := by
  cases state <;> rfl

theorem Voice.reportBytes_eq (v : Voice) :
    v.reportBytes =
      [match v.state with | .idle => 0 | .playing => 1 | .starved => 2 | .held _ => 3, nat1 v.queue.length,
        v.current.elim 255 fun n => n.timbre.code] := by
  rw [Voice.reportBytes, VoiceState.code_eq]
  cases v.current <;> rfl

section

variable {s : State} (h : s.Accepts)
include h

theorem setVoice_refused {voice group conditioning refill : Byte}
    (hbad : 7 < voice.toNat ∨ 1 < group.toNat ∨ 1 < conditioning.toNat) :
    Answers (.setVoice voice group conditioning refill) s .range [] := by
  rw [Answers, ServedAs, exec_served h rfl]
  dsimp only
  split
  · rw [if_pos (by simp; omega)]
  · rfl

theorem setVoice_sets {voice group conditioning refill : Byte} {v : VoiceNo} (hv : voice.toNat = v.val)
    (hgroup : group.toNat ≤ 1) (hconditioning : conditioning.toNat ≤ 1) :
    ServedAs (.setVoice voice group conditioning refill) s fun u =>
      { u with
        sound :=
          u.sound.setVoice v
            { u.sound.voices.get v with
              group := if group = 0 then .a else .b
              conditioning := if conditioning = 0 then .silence else .hold
              refill := refillOf refill } }.answer .ok [group, conditioning, nat1 (refillOf refill)] := by
  obtain ⟨i, hi⟩ := v
  subst hv
  rw [ServedAs, exec_served h rfl, dif_pos hi, if_neg (by simp; omega)]
  dsimp only
  rw [Group.code_of_byte hgroup, Conditioning.code_of_byte hconditioning]

theorem loadWave_refused {table : Byte} (hbad : 7 < table.toNat) : Answers (.loadWave table) s .range [] := by
  rw [Answers, ServedAs, exec_served h rfl]
  dsimp only
  rw [dif_neg (by omega)]

theorem loadWave_loads {table : Byte} {w : Fin 8} {wave : Wave} (hw : table.toNat = w.val)
    (hwave : ∀ j : Fin 32, (wave.get j).val = min 15 (s.window.buffer.get (j.castLE (by decide))).toNat) :
    ServedAs (.loadWave table) s fun u =>
      { u with sound := { u.sound with waves := u.sound.waves.set w wave } }.answer .ok
        [table, nat1 ((s.window.buffer.items.take 32).countP fun (b : Byte) => decide (15 < b.toNat))] := by
  obtain ⟨i, hi⟩ := w
  subst hw
  obtain rfl : wave = Table.tabulate 32 fun j => sampleOf (Area.byteAt s.window.buffer j.val) :=
    Table.ext_get fun j => Fin.ext <| by
      rw [hwave, Table.get_tabulate, ← Area.byteAt_eq]
      rfl
  rw [ServedAs, exec_served h rfl, dif_pos hi]
  simp only [State.serving_buffer]

theorem readVoices_answers {marks : Byte}
    (hmarks : ∀ v : VoiceNo, marks.getLsbD v.val = (s.sound.voices.get v).startMark) :
    ServedAs .readVoices s fun u =>
      { u with sound := { u.sound with clipped := 0 } }.answer .ok
        (u.sound.voices.items.flatMap Voice.reportBytes ++ [marks] ++ nat2 u.sound.clipped) := by
  rw [ServedAs, exec_served h rfl, eq_maskOf hmarks]
  simp only [State.serving_voices]

end

/-- Settles O42, request by request. -/
theorem soundSettingsAndReaders : Obligations.SoundSettingsAndReaders := by
  refine ⟨fun voice group conditioning refill s h => ⟨setVoice_refused h, ?_⟩, fun volume s h => ?_,
    fun table s h => ⟨loadWave_refused h, fun w wave => loadWave_loads h⟩, fun s marks h hmarks => ?_, fun s h => ?_⟩
  · rintro v hv hgroup hconditioning _ rfl
    rw [← refillOf_eq]
    exact setVoice_sets h hv hgroup hconditioning
  · exact exec_served (c := .setMaster volume) h rfl
  · have hserved := readVoices_answers h hmarks
    rw [funext Voice.reportBytes_eq] at hserved
    exact hserved
  · exact exec_served (c := .readMarkers) h rfl

/-! ### Requests on a mask of voices (R111 to R113) -/

theorem Sound.getLsbD_maskWhere (so : Sound) (mask : Byte) (p : Voice → Bool) (v : VoiceNo) :
    (so.maskWhere mask p).getLsbD v.val = (mask.getLsbD v.val && p (so.voices.get v)) :=
  getLsbD_maskOf _ v

theorem Sound.get_onMask (so : Sound) (mask : Byte) (f : Voice → Voice) (v : VoiceNo) :
    (so.onMask mask f).voices.get v =
      if mask.getLsbD v.val = true then f (so.voices.get v) else so.voices.get v :=
  Table.get_tabulate _ v

/-- A named voice that a request can act on: its bit is answered, and it is acted on. -/
theorem Sound.onMask_acts {so : Sound} {mask : Byte} {f : Voice → Voice} {p : Voice → Bool} {v : VoiceNo}
    (hnamed : mask.getLsbD v.val = true) (hcan : p (so.voices.get v) = true) :
    (so.maskWhere mask p).getLsbD v.val = true ∧ (so.onMask mask f).voices.get v = f (so.voices.get v) := by
  rw [Sound.getLsbD_maskWhere, Sound.get_onMask, if_pos hnamed, hnamed, hcan]
  exact ⟨rfl, rfl⟩

/-- A voice that is not named, or that a request cannot act on: its bit is clear, and it stands as it stood. -/
theorem Sound.onMask_rests {so : Sound} {mask : Byte} {f : Voice → Voice} {p : Voice → Bool} {v : VoiceNo}
    (h : mask.getLsbD v.val = false ∨ p (so.voices.get v) = false) (hrests : ∀ v, p v = false → f v = v) :
    (so.maskWhere mask p).getLsbD v.val = false ∧ (so.onMask mask f).voices.get v = so.voices.get v := by
  rw [Sound.getLsbD_maskWhere, Sound.get_onMask]
  obtain hnot | hcannot := h
  · rw [hnot]
    exact ⟨rfl, rfl⟩
  · rw [hcannot, hrests _ hcannot, Bool.and_false, ite_self]
    exact ⟨rfl, rfl⟩

theorem Voice.hold_of_some {v : Voice} {prior : PriorState} (h : v.state.canHold = some prior) :
    v.hold = { v with state := .held prior } := by
  rw [Voice.hold, h]

theorem Voice.hold_of_none {v : Voice} (h : v.state.canHold.isSome = false) : v.hold = v := by
  rw [Voice.hold, Option.isNone_iff_eq_none.1 (Option.isSome_eq_false_iff.1 h)]

theorem Voice.release_of_some {v : Voice} {state : VoiceState} (h : v.state.released = some state) :
    v.release = { v with state := state } := by
  rw [Voice.release, h]

theorem Voice.release_of_none {v : Voice} (h : v.state.released.isSome = false) : v.release = v := by
  rw [Voice.release, Option.isNone_iff_eq_none.1 (Option.isSome_eq_false_iff.1 h)]

section

variable {s : State} {mask : Byte} {v : VoiceNo}

theorem holdVoices_holds {prior : PriorState} (hnamed : mask.getLsbD v.val = true)
    (hcan : (s.sound.voices.get v).state.canHold = some prior) :
    (s.sound.maskWhere mask fun v => v.state.canHold.isSome).getLsbD v.val = true ∧
      (s.sound.onMask mask Voice.hold).voices.get v = { s.sound.voices.get v with state := .held prior } := by
  rw [← Voice.hold_of_some hcan]
  exact Sound.onMask_acts hnamed (by rw [hcan]; rfl)

theorem releaseVoices_releases {state : VoiceState} (hnamed : mask.getLsbD v.val = true)
    (hcan : (s.sound.voices.get v).state.released = some state) :
    (s.sound.maskWhere mask fun v => v.state.released.isSome).getLsbD v.val = true ∧
      (s.sound.onMask mask Voice.release).voices.get v = { s.sound.voices.get v with state := state } := by
  rw [← Voice.release_of_some hcan]
  exact Sound.onMask_acts hnamed (by rw [hcan]; rfl)

end

@[simp] theorem State.serving_onMask (c : Instr) (s : State) (mask : Byte) (f : Voice → Voice) :
    (s.serving c).sound.onMask mask f =
      { (s.serving c).sound with voices := (s.sound.onMask mask f).voices } := by
  simp only [Sound.onMask, State.serving_voices]

@[simp] theorem State.serving_maskWhere (c : Instr) (s : State) (mask : Byte) (p : Voice → Bool) :
    (s.serving c).sound.maskWhere mask p = s.sound.maskWhere mask p := by
  simp only [Sound.maskWhere, State.serving_voices]

@[simp] theorem State.serving_queuedIn (c : Instr) (s : State) (mask : Byte) :
    (s.serving c).sound.queuedIn mask = s.sound.queuedIn mask := by
  simp only [Sound.queuedIn, State.serving_voices]

/-- Settles O43: the requests act through `Sound.onMask` and answer `Sound.maskWhere`, which are told by their bits. -/
theorem voiceMaskRequests : Obligations.VoiceMaskRequests := by
  intro mask s h
  refine ⟨⟨(s.sound.onMask mask fun v => if v.state = .idle then { v with startMark := true } else v).voices,
      s.sound.maskWhere mask fun v => v.state == .idle, ?_, fun v => ⟨?_, ?_⟩⟩,
    ⟨(s.sound.onMask mask Voice.hold).voices, s.sound.maskWhere mask fun v => v.state.canHold.isSome, ?_,
      fun v => ⟨fun hnamed hplaying => ?_, fun hnamed hstarved => ?_, fun hnot => ?_⟩⟩,
    ⟨(s.sound.onMask mask Voice.release).voices, s.sound.maskWhere mask fun v => v.state.released.isSome, ?_,
      fun v => ⟨fun hnamed hplaying => ?_, fun hnamed hstarved => ?_, fun hnot => ?_⟩⟩,
    ⟨(s.sound.onMask mask Voice.stop).voices, s.sound.maskWhere mask fun v => v.state != .idle, ?_, fun v => ⟨?_, ?_⟩⟩⟩
  · rw [ServedAs, exec_served h rfl, State.serving_onMask, State.serving_maskWhere]
  · exact s.sound.getLsbD_maskWhere mask _ v
  · rw [Sound.get_onMask, Sound.getLsbD_maskWhere]
    cases mask.getLsbD v.val <;> simp
  · rw [ServedAs, exec_served h rfl, State.serving_onMask, State.serving_maskWhere]
  · exact holdVoices_holds hnamed (by rw [hplaying]; rfl)
  · exact holdVoices_holds hnamed (by rw [hstarved]; rfl)
  · refine Sound.onMask_rests (hnot.imp_right ?_) fun _ => Voice.hold_of_none
    rintro (hidle | ⟨prior, hheld⟩)
    · rw [hidle]; rfl
    · rw [hheld]; rfl
  · rw [ServedAs, exec_served h rfl, State.serving_onMask, State.serving_maskWhere]
  · exact releaseVoices_releases hnamed (by rw [hplaying]; rfl)
  · exact releaseVoices_releases hnamed (by rw [hstarved]; rfl)
  · refine Sound.onMask_rests (hnot.imp_right fun hnone => ?_) fun _ => Voice.release_of_none
    cases hstate : (s.sound.voices.get v).state with
    | held prior => exact absurd hstate (hnone prior)
    | idle | playing | starved => rfl
  · rw [ServedAs, exec_served h rfl, State.serving_onMask, State.serving_maskWhere, State.serving_queuedIn]
    rfl
  · exact s.sound.getLsbD_maskWhere mask _ v
  · exact s.sound.get_onMask mask Voice.stop v

end Sys2Proof.Machine

/-! A voice at a sound tick (O44), and the sound tick and the end of the fade of the whole engine (O45). -/

namespace Sys2Proof.Machine

open Sys2Proof

/-! ### The steps of a tick (R115) -/

theorem stepVolume_eq (up : Bool) (volume : Fin 16) :
    stepVolume up volume =
      if up = true then (if h : volume.val < 15 then ⟨volume.val + 1, by omega⟩ else 15)
      else ⟨volume.val - 1, by omega⟩ := by
  unfold stepVolume
  split
  · split
    · exact Fin.ext (Nat.min_eq_right (by omega))
    · exact Fin.ext (Nat.min_eq_left (by omega))
  · rfl

theorem Voice.envelope_of_none {v : Voice} (h : v.current = none) : v.envelope = v := by
  unfold Voice.envelope
  rw [h]

/-- With a current note the envelope counts the pace down, and moves the volume when the count runs out (R115). -/
theorem Voice.envelope_of_some {v : Voice} {n : Note} (h : v.current = some n) :
    v.envelope =
      { v with
        paceCounter :=
          if n.pace = 0 then v.paceCounter
          else if v.paceCounter ≤ 1 then n.pace.val * 4
          else v.paceCounter - 1
        volume := if n.pace = 0 ∨ 1 < v.paceCounter then v.volume else stepVolume n.envelopeUp v.volume } := by
  unfold Voice.envelope
  split
  next hnone => exact nomatch h.symm.trans hnone
  next m hm =>
    obtain rfl : m = n := Option.some.inj (hm.symm.trans h)
    by_cases hpace : m.pace = 0
    · simp [hpace]
    · have hval : m.pace.val ≠ 0 := fun heq => hpace (Fin.ext heq)
      by_cases hcount : v.paceCounter ≤ 1
      · simp [hpace, hval, hcount, Nat.sub_eq_zero_of_le hcount]
      · have hmore : 1 < v.paceCounter := Nat.lt_of_not_le hcount
        simp [hpace, hval, hcount, hmore, Nat.sub_ne_zero_of_lt hmore]

theorem Voice.lengthStep_of_none {v : Voice} (h : v.current = none) : v.lengthStep = (v, true) := by
  unfold Voice.lengthStep
  rw [h]

/-- With a current note the length step counts the note down, unless it is spent or open, and tells whether it ends
(R115). -/
theorem Voice.lengthStep_of_some {v : Voice} {n : Note} (h : v.current = some n) :
    v.lengthStep =
      ({ v with
          lengthCounter := if v.spent = false ∧ n.length ≠ 0 then v.lengthCounter - 1 else v.lengthCounter },
        v.spent || (if n.length = 0 then decide (v.queue ≠ []) else decide (v.lengthCounter ≤ 1))) := by
  unfold Voice.lengthStep
  split
  next hnone => exact nomatch h.symm.trans hnone
  next m hm =>
    obtain rfl : m = n := Option.some.inj (hm.symm.trans h)
    by_cases hspent : v.spent = true
    · rw [if_pos hspent, if_neg fun hcounts => by simp [hspent] at hcounts]
      exact Prod.ext rfl (by simp [hspent])
    · have hfresh : v.spent = false := Bool.eq_false_iff.2 hspent
      by_cases hopen : m.length = 0
      · rw [if_neg hspent, if_pos hopen, if_neg fun hcounts => hcounts.2 hopen]
        exact Prod.ext rfl (by cases v.queue <;> simp [hfresh, hopen])
      · rw [if_neg hspent, if_neg hopen, if_pos ⟨hfresh, hopen⟩]
        exact Prod.ext rfl (by simp [hfresh, hopen, Nat.sub_eq_zero_iff_le, beq_eq_decide])

theorem Voice.takeNext_cons {v : Voice} {n : Note} {rest : List Note} (h : v.queue = n :: rest) :
    v.takeNext = { voice := v.becomeCurrent n rest, began := some n, starved := false } := by
  unfold Voice.takeNext
  rw [h]

theorem Voice.takeNext_nil {v : Voice} (h : v.queue = []) :
    v.takeNext =
      { voice := { v with state := .starved, spent := v.current.isSome }, began := none, starved := true } := by
  unfold Voice.takeNext
  rw [h]

/-! ### A voice at a sound tick (R111, R112, R115, R117) -/

theorem Voice.progress_idle {v : Voice} (h : v.state = .idle) (hmark : v.startMark = false) :
    v.progress = { voice := v, began := none, starved := false } := by
  unfold Voice.progress
  rw [h, hmark]
  rfl

theorem Voice.progress_started {v : Voice} (h : v.state = .idle) (hmark : v.startMark = true) :
    v.progress = Voice.takeNext { v with startMark := false } := by
  unfold Voice.progress
  rw [h, hmark]
  rfl

theorem Voice.progress_starved {v : Voice} (h : v.state = .starved) :
    v.progress = { voice := v.envelope, began := none, starved := false } := by
  unfold Voice.progress
  rw [h]

theorem Voice.progress_playing {v : Voice} (h : v.state = .playing) :
    v.progress =
      if v.lengthStep.2 = true then v.lengthStep.1.envelope.takeNext
      else { voice := v.lengthStep.1.envelope, began := none, starved := false } := by
  unfold Voice.progress
  rw [h]

/-- Settles O44. `run` is the voice after the envelope step, with the length step before it where the voice is PLAYING;
the next entry is taken from it as from the voice itself, since it sets the counters and the volume anew. -/
theorem voiceProgressAtASoundTick : Obligations.VoiceProgressAtASoundTick := by
  intro v run taken ended hv htaken hnone hsome
  obtain ⟨-, -, hidle, -⟩ := id hv
  have htake (n : Note) (rest : List Note) : taken n rest = Voice.becomeCurrent { v with startMark := false } n rest :=
    htaken n rest
  have hshape : ∃ length pace volume,
      run = { v with lengthCounter := length, paceCounter := pace, volume := volume } := by
    obtain hcurrent | ⟨n, hcurrent⟩ := Option.eq_none_or_eq_some v.current
    · exact ⟨_, _, _, (hnone hcurrent).1⟩
    · exact ⟨_, _, _, (hsome n hcurrent).1⟩
  have hstarving (h : v.state = .starved) : v.envelope = run := by
    obtain hcurrent | ⟨n, hcurrent⟩ := Option.eq_none_or_eq_some v.current
    · rw [Voice.envelope_of_none hcurrent, (hnone hcurrent).1]
    · have hstill : ¬(v.state = .playing ∧ v.spent = false ∧ n.length ≠ 0) := fun hall => nomatch h.symm.trans hall.1
      rw [Voice.envelope_of_some hcurrent, stepVolume_eq, (hsome n hcurrent).1, if_neg hstill]
  have hplaying (h : v.state = .playing) : v.lengthStep.1.envelope = run ∧ v.lengthStep.2 = ended := by
    obtain hcurrent | ⟨n, hcurrent⟩ := Option.eq_none_or_eq_some v.current
    · obtain ⟨hrun, hended⟩ := hnone hcurrent
      rw [Voice.lengthStep_of_none hcurrent, Voice.envelope_of_none hcurrent]
      exact ⟨hrun.symm, hended.symm⟩
    · obtain ⟨hrun, hended⟩ := hsome n hcurrent
      rw [Voice.envelope_of_some (v.lengthStep_current.trans hcurrent), Voice.lengthStep_of_some hcurrent, hrun,
        stepVolume_eq]
      exact ⟨by simp only [h, true_and], hended.symm⟩
  obtain ⟨length, pace, volume, hrun⟩ := hshape
  have hrunQueue : run.queue = v.queue := by rw [hrun]
  refine ⟨Voice.progress_idle, fun _ => Voice.progress_held, fun h hset hqueue => ?_, fun n rest h hset hqueue => ?_,
    fun h => ?_, fun h hended => ?_, fun n rest h hended hqueue => ?_, fun h hended hqueue => ?_⟩
  · obtain ⟨hcurrent, hspent⟩ := hidle h
    rw [Voice.progress_started h hset, Voice.takeNext_nil (v := { v with startMark := false }) hqueue]
    simp only [hcurrent, hspent, Option.isSome_none]
  · rw [Voice.progress_started h hset, Voice.takeNext_cons (v := { v with startMark := false }) hqueue, htake]
  · rw [Voice.progress_starved h, hstarving h]
  · obtain ⟨henvelope, hends⟩ := hplaying h
    rw [Voice.progress_playing h, henvelope, hends, hended, if_neg Bool.false_ne_true]
  · obtain ⟨henvelope, hends⟩ := hplaying h
    rw [Voice.progress_playing h, henvelope, hends, if_pos hended, Voice.takeNext_cons (hrunQueue.trans hqueue), htake,
      hrun]
    simp only [Voice.becomeCurrent, Voice.startMark_of_playing hv h]
  · obtain ⟨henvelope, hends⟩ := hplaying h
    rw [Voice.progress_playing h, henvelope, hends, if_pos hended, Voice.takeNext_nil (hrunQueue.trans hqueue), hrun]

/-! ### The whole engine (R115, R117, R120, R122, R138) -/

/-- Settles O45: the tick in the numbers of R115 to R122, and the end of the fade. -/
theorem soundTicksAndFadeComplete : Obligations.SoundTicksAndFadeComplete := by
  refine ⟨fun s began starved hrun hhanded hbegan hstarved => ?_, fun s m hrun hwork hmaster hsaved => ?_⟩
  · subst hbegan
    obtain rfl : starved = s.sound.starving := eq_maskOf hstarved
    show execSoundTick s = _
    unfold execSoundTick
    rw [if_pos (by simp [hrun, hhanded]), State.soundTick]
    simp only [Sound.progression, Sound.deliver, Sound.fadeStep, State.fading, beq_iff_eq]
    split <;> rfl
  · show execFadeComplete s = _
    unfold execFadeComplete
    rw [if_pos (by simp [State.fading, hrun, hwork, hmaster]), hsaved]
    rfl

end Sys2Proof.Machine

/-! The output of a voice and its shares, with their ranges (O47). -/

namespace Sys2Proof.Machine

open Sys2Proof

/-! ### The note a voice moves with and the note it samples (R128) -/

theorem Voice.moving_of_current {v : Voice} {n : Note} (hstate : v.state = .playing ∨ v.state = .starved)
    (hcurrent : v.current = some n) : v.moving = some n := by
  unfold Voice.moving
  obtain hplaying | hstarved := hstate
  · rw [hplaying, hcurrent]
  · rw [hstarved, hcurrent]

theorem Voice.moving_eq_none {v : Voice}
    (h : v.state = .idle ∨ (∃ prior, v.state = .held prior) ∨ v.current = none) : v.moving = none := by
  unfold Voice.moving
  obtain hidle | ⟨prior, hheld⟩ | hnone := h
  · rw [hidle]
  · rw [hheld]
  · rw [hnone]
    cases v.state <;> rfl

theorem Voice.isSpent_iff (v : Voice) : v.isSpent = true ↔ v.state = .starved ∨ v.spent = true := by
  simp [Voice.isSpent, or_comm]

theorem Voice.sounding_of_moving_none {v : Voice} (h : v.moving = none) : v.sounding = none := by
  rw [Voice.sounding, h, ite_self]

theorem Voice.sounding_of_silenced {v : Voice} (hspent : v.state = .starved ∨ v.spent = true)
    (hsilence : v.conditioning = .silence) : v.sounding = none := by
  rw [Voice.sounding, v.isSpent_iff.2 hspent, hsilence]
  rfl

theorem Voice.sounding_of_heard {v : Voice}
    (h : (v.state = .playing ∧ v.spent = false) ∨ v.conditioning = .hold) : v.sounding = v.moving := by
  obtain ⟨hplaying, hfresh⟩ | hhold := h
  · simp [Voice.sounding, Voice.isSpent, hplaying, hfresh]
  · simp [Voice.sounding, hhold]

/-! ### Output and shares (R135, R136) -/

theorem Voice.output_of_none {v : Voice} (h : v.sounding = none) (waves : Table Wave 8) : v.output waves = 0 := by
  rw [Voice.output, h]

theorem Voice.output_of_some {v : Voice} {n : Note} (h : v.sounding = some n) (waves : Table Wave 8) :
    v.output waves =
      ((sample waves v.phase v.noise n.timbre).elim 0 fun q => 2 * (q.val : Int) - 15) * v.volume.val := by
  rw [Voice.output, h]
  cases hsample : sample waves v.phase v.noise n.timbre <;> simp [hsample]

theorem Voice.leftShare_of_none {v : Voice} (h : v.sounding = none) (waves : Table Wave 8) :
    v.leftShare waves = 0 := by
  rw [Voice.leftShare, h]

theorem Voice.rightShare_of_none {v : Voice} (h : v.sounding = none) (waves : Table Wave 8) :
    v.rightShare waves = 0 := by
  rw [Voice.rightShare, h]

theorem Voice.leftShare_of_some {v : Voice} {n : Note} (h : v.sounding = some n) (waves : Table Wave 8) :
    v.leftShare waves = v.output waves * n.left.val := by
  rw [Voice.leftShare, h]

theorem Voice.rightShare_of_some {v : Voice} {n : Note} (h : v.sounding = some n) (waves : Table Wave 8) :
    v.rightShare waves = v.output waves * n.right.val := by
  rw [Voice.rightShare, h]

/-! ### Samples by timbre (R130, R131, R133) -/

theorem position_eq {phase : Half} {p : Fin 32} (h : phase.toNat / 2048 = p.val) : position phase = p := Fin.ext h

/-- A square is at its top for the first `duty` positions and at its bottom after them (R130). -/
theorem squareSample_level (duty : Nat) (p : Fin 32) :
    2 * ((squareSample duty p).val : Int) - 15 = if p.val < duty then 15 else -15 := by
  unfold squareSample
  split <;> rfl

theorem noiseSample_level (low : Bool) :
    2 * ((if low then 0 else 15 : Fin 16).val : Int) - 15 = if low = true then -15 else 15 := by
  cases low <;> rfl

/-! ### Ranges (R135, R136) -/

theorem abs_level_le (q : Option (Fin 16)) : |q.elim 0 fun q => 2 * (q.val : Int) - 15| ≤ 15 := by
  cases q with
  | none => simp
  | some q =>
    rw [abs_le, Option.elim_some]
    omega

theorem Voice.abs_output_le (v : Voice) (waves : Table Wave 8) : |v.output waves| ≤ 225 := by
  cases hsounding : v.sounding with
  | none =>
    rw [Voice.output_of_none hsounding]
    decide
  | some n =>
    have hvolume : |(v.volume.val : Int)| ≤ 15 := by
      rw [abs_le]
      omega
    rw [Voice.output_of_some hsounding, abs_mul]
    exact mul_le_mul (abs_level_le _) hvolume (abs_nonneg _) (by decide)

theorem Voice.abs_output_mul_gain_le (v : Voice) (waves : Table Wave 8) (gain : Fin 4) :
    |v.output waves * gain.val| ≤ 675 := by
  have hgain : |(gain.val : Int)| ≤ 3 := by
    rw [abs_le]
    omega
  rw [abs_mul]
  exact mul_le_mul (v.abs_output_le waves) hgain (abs_nonneg _) (by decide)

theorem Voice.abs_leftShare_le (v : Voice) (waves : Table Wave 8) : |v.leftShare waves| ≤ 675 := by
  cases hsounding : v.sounding with
  | none =>
    rw [Voice.leftShare_of_none hsounding]
    decide
  | some n =>
    rw [Voice.leftShare_of_some hsounding]
    exact v.abs_output_mul_gain_le waves n.left

theorem Voice.abs_rightShare_le (v : Voice) (waves : Table Wave 8) : |v.rightShare waves| ≤ 675 := by
  cases hsounding : v.sounding with
  | none =>
    rw [Voice.rightShare_of_none hsounding]
    decide
  | some n =>
    rw [Voice.rightShare_of_some hsounding]
    exact v.abs_output_mul_gain_le waves n.right

/-- Settles O47: silence, the output by timbre, and the ranges. -/
theorem voiceOutputsAndShares : Obligations.VoiceOutputsAndShares := by
  intro v waves
  obtain ⟨houtputLow, houtputHigh⟩ := abs_le.1 (v.abs_output_le waves)
  obtain ⟨hleftLow, hleftHigh⟩ := abs_le.1 (v.abs_leftShare_le waves)
  obtain ⟨hrightLow, hrightHigh⟩ := abs_le.1 (v.abs_rightShare_le waves)
  refine ⟨fun h => ?_, fun n hcurrent hstate hheard => ?_, houtputLow, houtputHigh, hleftLow, hleftHigh, hrightLow,
    hrightHigh⟩
  · have hsounding : v.sounding = none := by
      obtain hidle | hheld | hnone | ⟨hspent, hsilence⟩ := h
      · exact Voice.sounding_of_moving_none (Voice.moving_eq_none (.inl hidle))
      · exact Voice.sounding_of_moving_none (Voice.moving_eq_none (.inr (.inl hheld)))
      · exact Voice.sounding_of_moving_none (Voice.moving_eq_none (.inr (.inr hnone)))
      · exact Voice.sounding_of_silenced hspent hsilence
    exact ⟨Voice.output_of_none hsounding _, Voice.leftShare_of_none hsounding _, Voice.rightShare_of_none hsounding _⟩
  · have hsounding : v.sounding = some n :=
      (Voice.sounding_of_heard hheard).trans (Voice.moving_of_current hstate hcurrent)
    refine ⟨Voice.leftShare_of_some hsounding _, Voice.rightShare_of_some hsounding _, fun p hp => ?_⟩
    rw [Voice.output_of_some hsounding]
    cases n.timbre with
    | square12 | square25 | square50 | square75 =>
      simp only [sample, Option.elim_some, position_eq hp, squareSample_level]
      rfl
    | wave t => simp only [sample, Option.elim_some, position_eq hp]
    | noiseLong | noiseShort => simp only [sample, Option.elim_some, noiseSample_level]
    | rest => simp only [sample, Option.elim_none, zero_mul]

end Sys2Proof.Machine

/-! A frame as computed and sent (O46): what it makes of each voice, the sums and slot values of the mix, and the words
and bits on ASD. -/

namespace Sys2Proof

theorem Table.items_eq_ofFn {α : Type} {n : Nat} (t : Table α n) : t.items = List.ofFn t.get :=
  List.ext_getElem (by rw [t.size, List.length_ofFn]) fun i _ _ => by rw [List.getElem_ofFn, Table.get]

end Sys2Proof

namespace Sys2Proof.Machine

open Sys2Proof

/-! ### A voice at a frame (R128, R129, R133) -/

theorem Voice.advance_of_none {v : Voice} (h : v.moving = none) : v.advance = v := by
  rw [Voice.advance, h]

theorem position_ne_iff (before after : Half) :
    position after ≠ position before ↔ after.toNat / 2048 ≠ before.toNat / 2048 := by
  rw [Ne, Fin.ext_iff]
  rfl

/-- With a moving note the phase rises by the pitch step, and a move of the position under a noise timbre advances the
noise register (R129, R133). -/
theorem Voice.advance_of_some {v : Voice} {n : Note} (h : v.moving = some n) :
    v.advance =
      { v with
        phase := v.phase + n.pitch
        noise :=
          if (n.timbre = .noiseLong ∨ n.timbre = .noiseShort) ∧
              (v.phase + n.pitch).toNat / 2048 ≠ v.phase.toNat / 2048 then
            noiseAdvance (decide (n.timbre = .noiseShort)) v.noise
          else v.noise } := by
  rw [Voice.advance, h]
  simp only [← position_ne_iff]
  by_cases hcrosses : position (v.phase + n.pitch) = position v.phase
  · cases n.timbre <;> simp [hcrosses]
  · have hmoved : (position (v.phase + n.pitch) != position v.phase) = true := bne_iff_ne.2 hcrosses
    cases n.timbre <;> simp [hcrosses, hmoved]

/-! ### The mix (R136, R139, R140) -/

theorem Sound.groupSum_eq_sum (so : Sound) (g : Group) (share : Voice → Int) :
    so.groupSum g share = ∑ v : VoiceNo, if (so.voices.get v).group = g then share (so.voices.get v) else 0 := by
  rw [Sound.groupSum, so.voices.items_eq_ofFn, List.map_ofFn, List.sum_ofFn]
  rfl

/-- The four products of R139, by the slot format. -/
theorem Sound.get_products (so : Sound) (format : SlotFormat) {al ar bl br : Int}
    (hal : so.groupSum .a (Voice.leftShare so.waves) = al) (har : so.groupSum .a (Voice.rightShare so.waves) = ar)
    (hbl : so.groupSum .b (Voice.leftShare so.waves) = bl) (hbr : so.groupSum .b (Voice.rightShare so.waves) = br) :
    (so.products format).get =
      if format = .pair then ![(al + bl) * so.master, (ar + br) * so.master, 0, 0]
      else ![al * so.master, ar * so.master, bl * so.master, br * so.master] := by
  subst hal har hbl hbr
  funext j
  cases format <;> fin_cases j <;> rfl

theorem slotValue_eq (x : Int) : slotValue x = max (-32768) (min 32767 x) := by
  rw [slotValue, clamp]
  omega

theorem slotValue_ne_iff (x : Int) : slotValue x ≠ x ↔ x < -32768 ∨ 32767 < x := by
  rw [slotValue_eq]
  omega

theorem Sound.clips_iff (so : Sound) (format : SlotFormat) :
    so.clips format = true ↔
      ∃ j, (so.products format).get j < -32768 ∨ 32767 < (so.products format).get j := by
  simp only [Sound.clips, List.any_eq_true, Table.mem_items, decide_eq_true_eq, slotValue_ne_iff]
  exact ⟨fun ⟨_, ⟨j, hj⟩, hbounded⟩ => ⟨j, hj ▸ hbounded⟩, fun ⟨j, hbounded⟩ => ⟨_, ⟨j, rfl⟩, hbounded⟩⟩

/-! ### The words of a frame and their bits on ASD (R145) -/

theorem Link.send_get (l : Link) (slots : Frame) (j : Fin 4) :
    (l.send slots).sent.get (j + l.offset) = BitVec.ofInt 16 (slots.get j) := by
  simp [Link.send, rotate]

theorem toInt_ofInt_slotValue (x : Int) : (BitVec.ofInt 16 (slotValue x)).toInt = slotValue x := by
  have hlow : -32768 ≤ slotValue x := clamp_low (by decide)
  have hhigh : slotValue x ≤ 32767 := clamp_high _ _ _
  exact BitVec.toInt_ofInt_eq_self (by decide) hlow (Int.lt_add_one_of_le hhigh)

/-- Pieces of one length `c` laid end to end: place `c * i + k` is place `k` of piece `i`. -/
theorem getElem?_flatMap_of_length {α β : Type} {f : α → List β} {c : Nat} (hlength : ∀ a, (f a).length = c)
    (l : List α) (i : Nat) {k : Nat} (hk : k < c) :
    (l.flatMap f)[c * i + k]? = l[i]?.bind fun a => (f a)[k]? := by
  induction l generalizing i with
  | nil => rfl
  | cons a rest ih =>
    cases i with
    | zero => simp [List.getElem?_append_left, hlength, hk]
    | succ i =>
      have hpast : c * (i + 1) + k = (f a).length + (c * i + k) := by
        rw [hlength, Nat.mul_succ]
        omega
      rw [List.flatMap_cons, hpast, List.getElem?_append_right (Nat.le_add_right _ _), Nat.add_sub_cancel_left, ih]
      rfl

theorem Link.asd_getElem? (l : Link) (p : Fin 4) (k : Fin 16) :
    l.asd[16 * p.val + k.val]? = some ((l.sent.get p).getLsbD (15 - k.val)) := by
  have hitem : l.sent.items[p.val]? = some (l.sent.get p) := List.getElem?_eq_getElem _
  rw [Link.asd, getElem?_flatMap_of_length (by simp) _ _ k.isLt, hitem]
  simp [BitVec.getMsbD]

/-- Settles O46: the bits on ASD, then the frame's voices, count and words. -/
theorem framesAreComputedAndSent : Obligations.FramesAreComputedAndSent := by
  intro s al ar bl br products hal har hbl hbr hproducts
  have hget : (s.sound.products s.link.format).get = products :=
    (s.sound.get_products s.link.format ((s.sound.groupSum_eq_sum _ _).trans hal.symm)
      ((s.sound.groupSum_eq_sum _ _).trans har.symm) ((s.sound.groupSum_eq_sum _ _).trans hbl.symm)
      ((s.sound.groupSum_eq_sum _ _).trans hbr.symm)).trans hproducts.symm
  refine ⟨Link.asd_getElem?, s.sound.voices.map Voice.advance, (s.link.send (s.sound.slots s.link.format)).sent, ?_,
    fun j => ?_, fun v => ⟨fun hstate n hcurrent => ?_, fun hstill => ?_⟩⟩
  · simp only [State.frame, Sound.afterFrame, Sound.clips_iff, hget]
    rfl
  · rw [Link.send_get, Sound.slots, Table.get_map, toInt_ofInt_slotValue, slotValue_eq, hget]
  · rw [Table.get_map, Voice.advance_of_some (Voice.moving_of_current hstate hcurrent)]
    refine ⟨_, rfl, ?_⟩
    split
    · intro k hk
      simp only [noiseAdvance_getLsbD _ _ hk, decide_eq_true_eq]
    · rfl
  · rw [Table.get_map, Voice.advance_of_none (Voice.moving_eq_none hstill)]

end Sys2Proof.Machine

/-! SUPPORT. What frame instants make of the link, and the link in good order after each of its own operations (R144 to
R151). -/

namespace Sys2Proof.Machine

open Sys2Proof

/-! ### The link after a frame instant (R143 to R145) -/

/-- What a frame instant makes of the link: frame events counted and frames sent, in the order in which they come. -/
inductive Link.Framed (l : Link) : Link → Prop
  | same : Link.Framed l l
  | count {l' : Link} (h : Link.Framed l l') : Link.Framed l l'.count
  | send {l' : Link} (h : Link.Framed l l') (slots : Frame) : Link.Framed l (l'.send slots)

/-- A frame event moves the two phases and the units handed on, and nothing else (R144). -/
theorem Link.count_eq (l : Link) :
    l.count =
      { l with
        tickPhase := if l.tickPhase + 1 < 128 then l.tickPhase + 1 else 0
        unitPhase :=
          if l.tickPhase + 1 < 128 then l.unitPhase else if l.unitPhase + 1 < 4 then l.unitPhase + 1 else 0
        unitsHanded :=
          if l.tickPhase + 1 < 128 ∨ l.unitPhase + 1 < 4 then l.unitsHanded else l.unitsHanded + 1 } := by
  unfold Link.count
  by_cases htick : l.tickPhase + 1 < 128
  · simp [htick]
  · by_cases hunit : l.unitPhase + 1 < 4 <;> simp [htick, hunit]

/-- Neither moves the settings or the state. -/
theorem Link.Framed.settings {l l' : Link} (h : l.Framed l') :
    l'.mode = l.mode ∧ l'.state = l.state ∧ l'.format = l.format ∧ l'.offset = l.offset := by
  induction h with
  | same => exact ⟨rfl, rfl, rfl, rfl⟩
  | count _ ih =>
    rw [Link.count_eq]
    exact ih
  | send _ _ ih => exact ih

theorem State.frame_framed {l : Link} {s : State} (h : l.Framed s.link) : l.Framed s.frame.link := h.send _

theorem State.settleTick_framed (s : State) : s.link.Framed s.settleTick.link := by
  unfold State.settleTick
  split
  · exact .send .same _
  · exact .same

theorem State.frameEvent_framed {l : Link} {s : State} (h : l.Framed s.link) : l.Framed s.frameEvent.link := by
  simp only [State.frameEvent]
  split
  · exact h.count.send _
  · exact h.count

theorem State.frameInstant_framed (s : State) : s.link.Framed s.frameInstant.link := by
  unfold State.frameInstant
  split
  · exact State.frameEvent_framed s.settleTick_framed
  · exact .send .same _
  · exact .same

/-- A frame instant of the own timing moves neither the settings nor the state. -/
theorem State.ownInstant_settings (s : State) (due : Instant) :
    (s.ownInstant due).link.mode = s.link.mode ∧ (s.ownInstant due).link.state = s.link.state ∧
      (s.ownInstant due).link.format = s.link.format ∧ (s.ownInstant due).link.offset = s.link.offset :=
  (State.frameInstant_framed _).settings

/-! ### Phases and slips in their ranges (R144, R148) -/

theorem Link.count_wf {l : Link} (h : l.Wf) : l.count.Wf := by
  obtain ⟨-, hunit, hrest⟩ := h
  rw [Link.count_eq]
  refine ⟨?_, ?_, hrest⟩
  · dsimp only
    split <;> omega
  · dsimp only
    split
    · exact hunit
    · split <;> omega

theorem Link.Framed.wf {l l' : Link} (h : l.Framed l') (hl : l.Wf) : l'.Wf := by
  induction h with
  | same => exact hl
  | count _ ih => exact Link.count_wf ih
  | send _ _ ih => exact ih

theorem Link.wf_of_slips {l : Link} (h : l.Wf) {slips : Nat} (hslips : slips ≤ Config.maxSlips) :
    Link.Wf { l with slips := slips } := by
  obtain ⟨htick, hunit, -, hrest⟩ := h
  exact ⟨htick, hunit, hslips, hrest⟩

/-! ### States, runs and the reference (R146 to R151) -/

/-- In FOLLOW any strobe can become the reference; in SLAVE the good run is 0, elsewhere the substitution run. -/
theorem Link.wf_of_reference {l : Link} (h : l.Wf) (hfollow : l.mode = .follow) {state : LinkState} {good missed : Nat}
    (hgood : good ≤ Config.goodRunFull) (hmissed : missed < Config.substitutionFull) (hslave : state = .slave → good = 0)
    (hother : state ≠ .slave → missed = 0) (reference : Instant) :
    Link.Wf
      { l with state := state, goodRun := good, substitutionRun := missed, reference := some reference } := by
  obtain ⟨htick, hunit, hslips, -⟩ := h
  exact ⟨htick, hunit, hslips, hgood, hmissed, fun hown => absurd (hfollow.symm.trans hown) nofun,
    fun hs => ⟨hfollow, rfl, hslave hs⟩, hother, nofun⟩

/-- Out of SLAVE the link can do without a reference, its runs 0 and OWN in MASTER. -/
theorem Link.wf_of_noReference {l : Link} (h : l.Wf) {mode : LinkMode} {state : LinkState} (hstate : state ≠ .slave)
    (hown : mode = .own → state = .master) {good : Nat} (hgood : good = 0) :
    Link.Wf
      { l with mode := mode, state := state, goodRun := good, substitutionRun := 0, reference := none } := by
  subst hgood
  obtain ⟨htick, hunit, hslips, -⟩ := h
  exact ⟨htick, hunit, hslips, Nat.zero_le _, Nat.succ_pos _, fun hmode => ⟨hown hmode, rfl⟩, fun hs => absurd hs hstate,
    fun _ => rfl, fun _ => rfl⟩

/-- In SLAVE no good run is counted (R149). -/
theorem Link.goodRun_of_slave {l : Link} (h : l.Wf) (hstate : l.state = .slave) : l.goodRun = 0 := by
  obtain ⟨-, -, -, -, -, -, hslave, -⟩ := h
  obtain ⟨-, -, hgood⟩ := hslave hstate
  exact hgood

/-- A bad strobe beside the own timing: the good run starts again (R149). -/
theorem Link.wf_of_goodRun_zero {l : Link} (h : l.Wf) : Link.Wf { l with goodRun := 0 } := by
  obtain ⟨htick, hunit, hslips, -, hmissed, hown, hslave, hother, -⟩ := h
  refine ⟨htick, hunit, hslips, Nat.zero_le _, hmissed, hown, fun hs => ?_, hother, fun _ => rfl⟩
  obtain ⟨hfollow, hreference, -⟩ := hslave hs
  exact ⟨hfollow, hreference, rfl⟩

theorem Link.withMode_wf {l : Link} (h : l.Wf) (mode : LinkMode) : (l.withMode mode).Wf := by
  unfold Link.withMode
  split
  · exact h
  · exact Link.wf_of_noReference h (by cases mode <;> decide) (by rintro rfl; rfl) rfl

theorem Link.softReset_wf {l : Link} (h : l.Wf) : l.softReset.Wf := by
  refine Link.wf_of_noReference (Link.wf_of_slips h (Nat.zero_le _)) ?_ (fun hown => ?_) rfl
  · cases l.mode <;> decide
  · rw [hown]

/-- A substitution comes in SLAVE; the fourth in a row leaves it (R148). -/
theorem Link.substitute_wf {l : Link} (h : l.Wf) (hstate : l.state = .slave) (reference : Instant) :
    (l.substitute reference).Wf := by
  obtain ⟨-, -, -, -, -, -, hslave, -⟩ := id h
  obtain ⟨hfollow, -⟩ := hslave hstate
  have hgood := Link.goodRun_of_slave h hstate
  have hslips := Link.wf_of_slips h (Nat.min_le_left Config.maxSlips (l.slips + 1))
  simp only [Link.substitute]
  split
  · exact Link.wf_of_reference hslips hfollow (hgood.trans_le (Nat.zero_le _)) ‹_› (fun _ => hgood)
      (absurd hstate) _
  · exact Link.wf_of_noReference hslips (mode := l.mode) (state := .master) (by decide) (fun _ => rfl) hgood

theorem Link.reset_wf : Link.reset.Wf := by decide

end Sys2Proof.Machine

/-! The good order of the link (O52): what every command keeps of phases, runs, slips, mode, state and reference. -/

namespace Sys2Proof.Machine

open Sys2Proof

/-- The link of a state in good order. -/
def State.LinkWf (s : State) : Prop := s.link.Wf

theorem State.linkWf_of_eq {s t : State} (h : s.LinkWf) (heq : t.link = s.link) : t.LinkWf := by
  rwa [State.LinkWf, heq]

/-! ### Frame instants, strobes and the change of source (R143 to R150) -/

theorem State.frameInstant_linkWf {s : State} (h : s.LinkWf) : s.frameInstant.LinkWf := s.frameInstant_framed.wf h

theorem State.ownInstant_linkWf {s : State} (h : s.LinkWf) (due : Instant) : (s.ownInstant due).LinkWf :=
  State.frameInstant_linkWf h

theorem State.toOwnTiming_linkWf (s : State) (now : Instant) {after : Link} (h : after.Wf) :
    (s.toOwnTiming now after).LinkWf := by
  unfold State.toOwnTiming
  split
  · split
    · exact State.ownInstant_linkWf (s := { s with link := after }) h now
    · exact h
  · exact h

theorem State.setLink_linkWf {s : State} (h : s.LinkWf) (mode : LinkMode) (format : SlotFormat) (offset : Fin 4)
    (now : Instant) : (s.setLink mode format offset now).LinkWf := by
  simp only [State.setLink]
  split
  · exact Link.withMode_wf h mode
  · exact State.toOwnTiming_linkWf s now (Link.withMode_wf h mode)

theorem State.enterSlave_linkWf {s : State} (h : s.LinkWf) (hfollow : s.link.mode = .follow) (arrival : Instant) :
    (s.enterSlave arrival).LinkWf := by
  have hentered := Link.wf_of_reference h hfollow (state := .slave) (Nat.zero_le _) (by decide) (fun _ => rfl)
    (fun _ => rfl) arrival
  simp only [State.enterSlave]
  split
  · split
    · exact hentered
    · exact State.frameInstant_linkWf hentered
  · exact State.frameInstant_linkWf hentered

theorem State.strobeAlongside_linkWf {s : State} (h : s.LinkWf) (hfollow : s.link.mode = .follow)
    (hstate : s.link.state ≠ .slave) (elapsed : Nat) (arrival : Instant) :
    (s.strobeAlongside elapsed arrival).LinkWf := by
  obtain ⟨-, -, -, -, hmissed, -, -, hother, -⟩ := id h
  have hheard {good : Nat} (hgood : good ≤ Config.goodRunFull) :=
    Link.wf_of_reference h hfollow hgood hmissed (fun hs => absurd hs hstate) hother arrival
  unfold State.strobeAlongside
  split
  · exact Link.wf_of_goodRun_zero h
  · exact hheard (Nat.zero_le _)
  · split
    · exact hheard (Nat.le_of_lt ‹_›)
    · exact State.enterSlave_linkWf h hfollow arrival

theorem State.strobeInSlave_linkWf {s : State} (h : s.LinkWf) (hfollow : s.link.mode = .follow) (elapsed : Nat)
    (arrival : Instant) : (s.strobeInSlave elapsed arrival).LinkWf := by
  obtain ⟨-, -, -, hgood, -⟩ := id h
  unfold State.strobeInSlave
  split
  · exact h
  · exact State.frameInstant_linkWf (Link.wf_of_reference h hfollow hgood (by decide) (Link.goodRun_of_slave h)
      (fun _ => rfl) arrival)

/-- The strobe that is heard first becomes the reference in the state it finds (R146). -/
theorem Link.wf_of_firstStrobe {l : Link} (h : l.Wf) (hfollow : l.mode = .follow) (arrival : Instant) :
    Link.Wf { l with reference := some arrival } := by
  obtain ⟨-, -, -, hgood, hmissed, -, -, hother, -⟩ := id h
  exact Link.wf_of_reference h hfollow hgood hmissed (Link.goodRun_of_slave h) hother arrival

/-! ### Resets and readings -/

theorem State.softResetLink_linkWf {s : State} (h : s.LinkWf) (now : Instant) : (s.softResetLink now).LinkWf :=
  State.toOwnTiming_linkWf s now (Link.softReset_wf h)

/-- Sound engine and link take their parts of a SOFT-RESET in either order (R189; log 14). -/
theorem State.softReset_linkWf {s : State} (h : s.LinkWf) (now : Instant) : (s.softReset now).LinkWf := by
  show (s.softResetSoundAndLink now).LinkWf
  unfold State.softResetSoundAndLink
  split
  · split
    · exact State.softResetLink_linkWf h now
    · exact State.softResetLink_linkWf (s := s.softResetSound) h now
  · exact State.softResetLink_linkWf (s := s.softResetSound) h now

theorem State.takeReading_linkWf {s : State} (h : s.LinkWf) (r : Reading) : (s.takeReading r).LinkWf := by
  obtain ⟨-, -, heq⟩ | ⟨-, -, heq⟩ | ⟨-, -, heq⟩ | ⟨-, -, heq⟩ := s.takeReading_cases r <;> rw [heq]
  · exact h
  · exact Link.reset_wf
  · exact h
  · exact Link.reset_wf

/-! ### Every command -/

theorem submit_linkWf {s : State} (h : s.LinkWf) {bytes : List Byte} {act : Bool → State → State}
    (hact : ∀ woke u, u.LinkWf → (act woke u).LinkWf) : (submit bytes act s).LinkWf :=
  submit_cases (P := State.LinkWf) h h fun _ woke => hact woke _ (State.linkWf_of_eq h (by simp))

theorem exec_linkWf {c : Instr} {s t : State} (hs : s.LinkWf) (h : exec c s = .next t) : t.LinkWf := by
  cases c
  case softReset now =>
    cases h
    exact submit_linkWf hs fun _ u hu => State.softReset_linkWf hu now
  case setLink =>
    cases h
    refine submit_linkWf hs fun _ u hu => ?_
    split
    · split
      · exact hu
      · exact State.setLink_linkWf hu _ _ _ _
    · exact hu
  case readLink =>
    cases h
    exact submit_linkWf hs fun _ u hu => Link.wf_of_slips hu (Nat.zero_le _)
  case frameInstant =>
    cases h
    split
    · split
      · exact State.ownInstant_linkWf hs _
      · exact State.ownInstant_linkWf hs _
      · exact hs
    · split
      · exact (Link.Framed.same.send restSlots).wf hs
      · exact hs
  case fsiStrobe arrival =>
    cases h
    split
    next hwatched =>
      have hfollow : s.link.mode = .follow := beq_iff_eq.1 (Bool.and_eq_true_iff.1 hwatched).2
      split
      · exact Link.wf_of_firstStrobe hs hfollow arrival
      · split
        next => exact State.strobeInSlave_linkWf hs hfollow _ arrival
        next hseeking => exact State.strobeAlongside_linkWf hs hfollow (by rw [hseeking]; decide) _ arrival
        next hmaster => exact State.strobeAlongside_linkWf hs hfollow (by rw [hmaster]; decide) _ arrival
    next => exact hs
  case substitution =>
    cases h
    split
    next hcomes =>
      have hslave : s.link.state = .slave := beq_iff_eq.1 (Bool.and_eq_true_iff.1 hcomes).2
      split
      · exact State.frameInstant_linkWf (Link.substitute_wf hs hslave _)
      · exact hs
    next => exact hs
  case soundTick =>
    cases h
    split
    · exact (Link.Framed.same.send _).wf hs
    · exact hs
  case rumbleUnit =>
    cases h
    split <;> exact hs
  case minuteEvent =>
    cases h
    split
    · exact hs
    · dsimp only
      split
      · exact hs
      · split
        · exact hs
        · exact State.takeReading_linkWf (by exact hs) _
  case supplyReading | wakeEvent =>
    cases h
    split
    · exact State.takeReading_linkWf (by exact hs) _
    · exact hs
  case consoleReset =>
    cases h
    dsimp only
    split
    · exact Link.reset_wf
    · exact hs
  case keepDomainStop | cellReset =>
    cases h
    exact Link.reset_wf
  all_goals exact State.linkWf_of_eq hs (exec_keeps_link rfl h)

/-- Settles O52: each command's effect on the link is made of its own operations, and each keeps the good order. -/
theorem linkWfKept : Obligations.LinkWfKept := fun _ _ hs h =>
  step_keeps (P := State.LinkWf) (fun _ _ => id) (fun _ _ _ => exec_linkWf) hs h

end Sys2Proof.Machine

/-! Frame instants (O50): the frame event in RUN, the rest frame in DOZE, and what FRAME_INSTANT makes of the own timing. -/

namespace Sys2Proof.Machine

open Sys2Proof

/-! ### The frame instant (R143, R144, R153) -/

/-- A rest frame is four zero words at every slot offset (R145, R153). -/
theorem Link.send_restSlots (l : Link) :
    l.send restSlots = { l with sent := Table.fill 4 0, framesSent := l.framesSent + 1 } := by
  have hzeros : (rotate l.offset restSlots).map (BitVec.ofInt 16) = Table.fill 4 0 :=
    Table.ext_get fun p => by simp [rotate, restSlots]
  rw [Link.send, hzeros]

theorem State.settleTick_of_none {s : State} (h : s.sound.tickHanded = false) : s.settleTick = s := by
  simp [State.settleTick, h]

theorem State.settleTick_of_handed {s : State} (h : s.sound.tickHanded = true) : s.settleTick = s.soundTick := by
  simp [State.settleTick, h]

/-- The 128th frame event is a sound tick, which is handed on and sends its frame later (R144). -/
theorem State.frameInstant_last {s : State} (h : s.power.main = .run) (ht : s.sound.tickHanded = false)
    (hp : 128 ≤ s.link.tickPhase + 1) :
    s.frameInstant =
      { s with
        link :=
          { s.link with
            tickPhase := 0
            unitPhase := if s.link.unitPhase + 1 < 4 then s.link.unitPhase + 1 else 0
            unitsHanded := if s.link.unitPhase + 1 < 4 then s.link.unitsHanded else s.link.unitsHanded + 1 }
        sound := { s.sound with tickHanded := true } } := by
  rw [State.frameInstant_run h, State.settleTick_of_none ht]
  simp [State.frameEvent, Nat.not_lt.2 hp, Link.count_eq]

/-! ### FRAME_INSTANT (R143, R150, R153, R154) -/

theorem execSoundTick_handed {s : State} (h : s.power.main = .run) (ht : s.sound.tickHanded = true) :
    execSoundTick s = .next s.soundTick := by
  simp [execSoundTick, h, ht]

/-- Out of SLAVE the own timing makes the frame instant. -/
theorem execFrameInstant_own {s : State} (h : s.power.main ≠ .off) (hstate : s.link.state ≠ .slave) :
    execFrameInstant s = .next (s.ownInstant s.link.ownNext) := by
  rw [execFrameInstant, if_pos (State.mainUp_eq_true h)]
  split
  · rfl
  · rfl
  · exact absurd ‹_› hstate

theorem execFrameInstant_slave {s : State} (h : s.power.main ≠ .off) (hstate : s.link.state = .slave) :
    execFrameInstant s = .next s := by
  rw [execFrameInstant, if_pos (State.mainUp_eq_true h), hstate]

theorem execFrameInstant_held {s : State} (h : s.power.main = .off) (hhold : s.link.outputsHold = true) :
    execFrameInstant s = .next { s with link := s.link.send restSlots } := by
  simp [execFrameInstant, State.mainUp_eq_false h, hhold]

/-- Settles O50: the frame instant in RUN by tick phase, with a tick still handed on, and in DOZE; then FRAME_INSTANT. -/
theorem frameInstantsMakeFrameEvents : Obligations.FrameInstantsMakeFrameEvents := by
  refine ⟨fun _ => State.frameInstant_plain, fun _ => State.frameInstant_last, fun s t hrun hhanded htick => ?_,
    fun s hdoze => ?_, fun s => execFrameInstant_own, fun s => execFrameInstant_slave, fun s hoff hhold => ?_⟩
  · obtain rfl : s.soundTick = t := Host.Outcome.next.inj ((execSoundTick_handed hrun hhanded).symm.trans htick)
    have htaken : s.soundTick.sound.tickHanded = false := rfl
    rw [State.frameInstant_run hrun, State.frameInstant_run (s := s.soundTick) hrun, State.settleTick_of_handed hhanded,
      State.settleTick_of_none htaken]
  · rw [State.frameInstant_doze hdoze, Link.send_restSlots]
  · rw [← Link.send_restSlots]
    exact execFrameInstant_held hoff hhold

end Sys2Proof.Machine

/-! Strobes and substitutions (O51): the classes of a strobe, what each makes of the link, and the substituted frame
instant. -/

namespace Sys2Proof.Machine

open Sys2Proof

/-! ### The class of a strobe (R146) -/

theorem strobeClass_bad {elapsed : Nat} (h : elapsed < 15360) : strobeClass elapsed = .bad := by
  simp [strobeClass, Config.goodFrom, h]

theorem strobeClass_good {elapsed : Nat} (hfrom : 15360 ≤ elapsed) (hto : elapsed ≤ 15872) :
    strobeClass elapsed = .good := by
  simp [strobeClass, Config.goodFrom, Config.goodTo, Nat.not_lt.2 hfrom, hto]

theorem strobeClass_late {elapsed : Nat} (h : 15872 < elapsed) : strobeClass elapsed = .late := by
  have hgood : ¬ elapsed < 15360 := by omega
  simp [strobeClass, Config.goodFrom, Config.goodTo, hgood, Nat.not_le.2 h]

/-- A strobe below a bound after the reference, one at or before the reference among them. -/
theorem elapsed_lt {arrival reference bound : Nat} (h : arrival < reference + (bound + 1)) :
    arrival - reference < bound + 1 := by
  omega

/-! ### Entry to SLAVE (R149, R150) -/

/-- The state at the entry to SLAVE, before the frame instant its strobe may make. -/
def State.slaved (s : State) (arrival : Instant) : State :=
  { s with
    link := { s.link with state := .slave, reference := some arrival, goodRun := 0, substitutionRun := 0 }
    notices :=
      if s.link.state = .master then
        { s.notices with link := { s.notices.link with pending := true, regained := true } }
      else s.notices }

theorem State.slaved_notices (s : State) (arrival : Instant) :
    (s.slaved arrival).notices =
      s.notices.raiseIf (s.link.state == .master) Notices.raiseLinkRegained := by
  simp [State.slaved, Notices.raiseIf, Notices.raiseLinkRegained]

/-- With the last own frame instant far enough before it, the strobe makes a frame instant. -/
theorem State.enterSlave_apart {s : State} {arrival : Instant}
    (h : ∀ own, s.link.ownLast = some own → own + 7680 ≤ arrival) :
    s.enterSlave arrival = (s.slaved arrival).frameInstant := by
  simp only [State.enterSlave, ← State.slaved_notices s arrival]
  split
  next own hown => exact if_neg (Nat.not_lt.2 (h own hown))
  next => rfl

/-- An own frame instant less than 15.0 microseconds before it stands for the strobe's. -/
theorem State.enterSlave_close {s : State} {arrival own : Instant} (hown : s.link.ownLast = some own)
    (h : arrival < own + 7680) : s.enterSlave arrival = s.slaved arrival := by
  simp only [State.enterSlave, ← State.slaved_notices s arrival, hown]
  exact (if_pos h).trans (by rw [← hown]; rfl)

/-! ### A strobe beside the own timing (R146, R149) -/

section

variable {s : State} {elapsed : Nat} (arrival : Instant)

theorem State.strobeAlongside_bad (h : elapsed < 15360) :
    s.strobeAlongside elapsed arrival = { s with link := { s.link with goodRun := 0 } } := by
  rw [State.strobeAlongside, strobeClass_bad h]

theorem State.strobeAlongside_late (h : 15872 < elapsed) :
    s.strobeAlongside elapsed arrival =
      { s with link := { s.link with goodRun := 0, reference := some arrival } } := by
  rw [State.strobeAlongside, strobeClass_late h]

theorem State.strobeAlongside_good (hfrom : 15360 ≤ elapsed) (hto : elapsed ≤ 15872) :
    s.strobeAlongside elapsed arrival =
      if s.link.goodRun < 15 then
        { s with link := { s.link with goodRun := s.link.goodRun + 1, reference := some arrival } }
      else s.enterSlave arrival := by
  rw [State.strobeAlongside, strobeClass_good hfrom hto]
  simp only [Config.goodRunFull, Nat.add_lt_iff_lt_sub_right]

/-! ### A strobe in SLAVE (R147) -/

theorem State.strobeInSlave_bad (h : elapsed < 15360) : s.strobeInSlave elapsed arrival = s := by
  rw [State.strobeInSlave, if_pos (.inl h)]

theorem State.strobeInSlave_taken (hfrom : 15360 ≤ elapsed) (hto : elapsed ≤ 16384) :
    s.strobeInSlave elapsed arrival =
      { s with link := { s.link with reference := some arrival, substitutionRun := 0 } }.frameInstant := by
  simp [State.strobeInSlave, Config.goodFrom, Config.deadline, Nat.not_lt.2 hfrom, Nat.not_lt.2 hto]

end

/-! ### FSI_STROBE (R146) -/

theorem execFsiStrobe_unwatched {s : State} (h : s.power.main = .off ∨ s.link.mode = .own) (arrival : Instant) :
    execFsiStrobe arrival s = .next s := by
  rw [execFsiStrobe, if_neg]
  obtain hoff | hown := h
  · simp [State.mainUp_eq_false hoff]
  · simp [hown]

section

variable {s : State} (h : s.power.main ≠ .off) (hfollow : s.link.mode = .follow) (arrival : Instant)
include h hfollow

theorem execFsiStrobe_first (hfirst : s.link.reference = none) :
    execFsiStrobe arrival s = .next { s with link := { s.link with reference := some arrival } } := by
  simp [execFsiStrobe, State.mainUp_eq_true h, hfollow, hfirst]

variable {reference : Instant} (hreference : s.link.reference = some reference)
include hreference

theorem execFsiStrobe_slave (hstate : s.link.state = .slave) :
    execFsiStrobe arrival s = .next (s.strobeInSlave (arrival - reference) arrival) := by
  simp [execFsiStrobe, State.mainUp_eq_true h, hfollow, hreference, hstate]

theorem execFsiStrobe_alongside (hstate : s.link.state ≠ .slave) :
    execFsiStrobe arrival s = .next (s.strobeAlongside (arrival - reference) arrival) := by
  cases hs : s.link.state with
  | slave => exact absurd hs hstate
  | seeking | master => simp [execFsiStrobe, State.mainUp_eq_true h, hfollow, hreference, hs]

end

/-! ### SUBSTITUTION (R148, R150) -/

/-- Short of the fourth in a row the link stays in SLAVE, its reference one nominal period on. -/
theorem Link.substitute_short {l : Link} (h : l.substitutionRun < 3) (reference : Instant) :
    l.substitute reference =
      { l with
        slips := min 255 (l.slips + 1)
        substitutionRun := l.substitutionRun + 1
        reference := some (reference + 15625) } :=
  if_pos (Nat.succ_lt_succ h)

/-- The fourth in a row leaves SLAVE for MASTER. -/
theorem Link.substitute_lost {l : Link} (h : 3 ≤ l.substitutionRun) (reference : Instant) :
    l.substitute reference =
      { l with
        slips := min 255 (l.slips + 1)
        substitutionRun := 0
        reference := none
        state := .master
        ownNext := reference + 15625 + 15625 } := by
  have hfull : ¬ l.substitutionRun + 1 < 4 := by omega
  simp [Link.substitute, Config.substitutionFull, Config.maxSlips, Config.period, hfull, Nat.add_assoc]

theorem execSubstitution_slave {s : State} {reference : Instant} (h : s.power.main ≠ .off)
    (hstate : s.link.state = .slave) (hreference : s.link.reference = some reference) :
    execSubstitution s =
      .next { s with
        link := s.link.substitute reference
        notices :=
          if 3 ≤ s.link.substitutionRun then
            { s.notices with link := { s.notices.link with pending := true, lost := true } }
          else s.notices }.frameInstant := by
  simp [execSubstitution, State.mainUp_eq_true h, hstate, hreference, Notices.raiseIf, Notices.raiseLinkLost,
    Config.substitutionFull]

/-- Settles O51: a strobe by mode, reference, state and class; then a substitution by its place in the run. -/
theorem strobesAndSubstitutions : Obligations.StrobesAndSubstitutions := by
  refine ⟨fun arrival s => ⟨fun h => execFsiStrobe_unwatched h arrival, fun h hfollow =>
    ⟨execFsiStrobe_first h hfollow arrival, fun r hr => ⟨fun hslave => ?_, fun hother => ?_⟩⟩⟩,
    fun s r h hslave hr => ⟨fun hshort => ?_, fun hlost => ?_⟩⟩
  · have hexec := execFsiStrobe_slave h hfollow arrival hr hslave
    refine ⟨fun hbad => ?_, fun hfrom hto => ?_⟩
    · rwa [State.strobeInSlave_bad arrival (elapsed_lt hbad)] at hexec
    · rwa [State.strobeInSlave_taken arrival (Nat.le_sub_of_add_le' hfrom) (Nat.sub_le_iff_le_add'.2 hto)] at hexec
  · have hexec := execFsiStrobe_alongside h hfollow arrival hr hother
    refine ⟨fun hbad => ?_, fun hlate => ?_, fun hfrom hto => ?_⟩
    · rwa [State.strobeAlongside_bad arrival (elapsed_lt hbad)] at hexec
    · rwa [State.strobeAlongside_late arrival (Nat.lt_sub_iff_add_lt'.2 hlate)] at hexec
    · rw [State.strobeAlongside_good arrival (Nat.le_sub_of_add_le' hfrom) (Nat.sub_le_iff_le_add'.2 hto)] at hexec
      refine ⟨fun hrun => ?_, fun hfull => ?_⟩
      · rwa [if_pos hrun] at hexec
      · rw [if_neg (Nat.not_lt.2 hfull)] at hexec
        rintro _ rfl
        refine ⟨fun hapart => ?_, fun own hown hclose => ?_⟩
        · rwa [State.enterSlave_apart hapart] at hexec
        · rwa [State.enterSlave_close hown hclose] at hexec
  · have hexec := execSubstitution_slave h hslave hr
    rwa [Link.substitute_short hshort, if_neg (Nat.not_le.2 hshort)] at hexec
  · have hexec := execSubstitution_slave h hslave hr
    rwa [Link.substitute_lost hlost, if_pos hlost] at hexec

end Sys2Proof.Machine

/-! SET-LINK and READ-LINK (O49): the change of mode, the own timing's takeover from the strobes, and what is answered. -/

namespace Sys2Proof.Machine

open Sys2Proof

/-! ### The change of mode and source (R150, R151) -/

@[simp] theorem State.serving_link (c : Instr) (s : State) : (s.serving c).link = s.link := by simp [State.serving]

/-- The link as a SET-LINK that changes the mode leaves it, but for the own timing. -/
def Link.changed (l : Link) (mode : LinkMode) (format : SlotFormat) (offset : Fin 4) : Link :=
  { l with
    mode := mode, format := format, offset := offset, goodRun := 0, substitutionRun := 0, reference := none
    state := if mode = .own then .master else .seeking }

theorem Link.changed_state_ne_slave (l : Link) (mode : LinkMode) (format : SlotFormat) (offset : Fin 4) :
    (l.changed mode format offset).state ≠ .slave := by
  cases mode <;> exact nofun

section

variable {u : State} {mode : LinkMode} (format : SlotFormat) (offset : Fin 4) (now : Instant)

theorem State.setLink_same (h : u.link.mode = mode) :
    u.setLink mode format offset now = { u with link := { u.link with format := format, offset := offset } } := by
  simp [State.setLink, Link.withMode, h]

variable (h : u.link.mode ≠ mode)
include h

/-- A changed mode takes effect with the new settings, before the change of source. -/
theorem State.setLink_changed :
    u.setLink mode format offset now = u.toOwnTiming now (u.link.changed mode format offset) := by
  have hchanged :
      { u.link.withMode mode with format := format, offset := offset } = u.link.changed mode format offset := by
    simp only [Link.withMode, if_neg h]
    cases mode <;> rfl
  rw [State.setLink, if_neg h, hchanged]

/-- From SEEKING or MASTER the own timing runs on. -/
theorem State.setLink_alongside (hstate : u.link.state ≠ .slave) :
    u.setLink mode format offset now = { u with link := u.link.changed mode format offset } := by
  rw [State.setLink_changed format offset now h, State.toOwnTiming]
  split
  · exact absurd ‹_› hstate
  · rfl

variable {reference : Instant} (hslave : u.link.state = .slave) (hreference : u.link.reference = some reference)
include hslave hreference

/-- From SLAVE the own timing begins one period after the reference instant. -/
theorem State.setLink_ahead (hnow : now ≤ reference + 15625) :
    u.setLink mode format offset now =
      { u with link := { u.link.changed mode format offset with ownNext := reference + 15625 } } := by
  rw [State.setLink_changed format offset now h, State.toOwnTiming, hslave, hreference]
  exact if_neg (Nat.not_lt.2 hnow)

/-- When that instant has passed, the own timing makes its first frame instant at the step. -/
theorem State.setLink_passed (hnow : reference + 15625 < now) :
    u.setLink mode format offset now =
      { u with link := { u.link.changed mode format offset with ownNext := now } }.ownInstant now := by
  rw [State.setLink_changed format offset now h, State.toOwnTiming, hslave, hreference]
  exact if_pos hnow

end

/-! ### SET-LINK (R151) -/

section

variable {mode format offset : Byte} {now : Instant} {s : State} (h : s.Accepts)
include h

theorem setLink_refused (hbad : 1 < mode.toNat ∨ 1 < format.toNat ∨ 3 < offset.toNat) :
    Answers (.setLink mode format offset now) s .range [] := by
  rw [Answers, ServedAs, exec_served h rfl]
  dsimp only
  split
  · rw [if_pos (by simp; omega)]
  · rfl

variable {m : LinkMode} {f : SlotFormat} {o : Fin 4} {u t : State} (hmode : mode = m.code) (hformat : format = f.code)
  (hoffset : offset.toNat = o.val)
include hmode hformat hoffset

/-- A SET-LINK that is not refused makes the change and answers the settings, with the state it leaves. -/
theorem setLink_sets (hu : u = s.serving (.setLink mode format offset now)) (hset : u.setLink m f o now = t)
    (htmode : t.link.mode = m) (htformat : t.link.format = f) (htoffset : t.link.offset = o) :
    exec (.setLink mode format offset now) s =
      .next (t.answer .ok [mode, t.link.state.code, format, offset]) := by
  have hm : (if mode = 0 then .follow else .own) = m := by subst hmode; cases m <;> rfl
  have hf : (if format = 0 then .pair else .split) = f := by subst hformat; cases f <;> rfl
  have hin : ¬ (decide (1 < mode.toNat) || decide (1 < format.toNat)) = true := by
    subst hmode hformat
    cases m <;> cases f <;> decide
  have ho : (⟨offset.toNat, hoffset ▸ o.isLt⟩ : Fin 4) = o := Fin.ext hoffset
  rw [exec_served h rfl, dif_pos (hoffset ▸ o.isLt), if_neg hin, hm, hf, ho, ← hu, hset]
  dsimp only
  rw [htmode, htformat, htoffset, ← hmode, ← hformat, ← hoffset, nat1_toNat]

end

/-- A request is served with the main domain up. -/
theorem State.serving_main_ne_off {s : State} (h : s.Accepts) (c : Instr) : (s.serving c).power.main ≠ .off := by
  rw [State.serving, State.taken_power, State.wake_main h.1]
  exact nofun

/-- Settles O49: the refusals; the mode unchanged, changed out of SLAVE, and changed in SLAVE before and after the first own
instant; then READ-LINK. -/
theorem linkRequests : Obligations.LinkRequests := by
  refine ⟨fun mode format offset now s h => ⟨setLink_refused h, ?_⟩, fun s h => exec_served (c := .readLink) h rfl⟩
  rintro m f o u changed hmode hformat hoffset hu rfl
  have hlink : u.link = s.link := by rw [hu, State.serving_link]
  have hup : u.power.main ≠ .off := hu ▸ State.serving_main_ne_off h _
  refine ⟨fun hsame => ?_, fun hdiffers hstate => ?_,
    fun r hdiffers hslave hreference => ⟨fun hahead => ?_, fun hpassed => ?_⟩⟩
  · rw [← hlink] at hsame
    exact setLink_sets h hmode hformat hoffset hu (State.setLink_same f o now hsame) hsame rfl rfl
  · rw [← hlink] at hdiffers hstate
    exact setLink_sets h hmode hformat hoffset hu (State.setLink_alongside f o now hdiffers hstate) rfl rfl rfl
  · rw [← hlink] at hdiffers hslave hreference
    exact setLink_sets h hmode hformat hoffset hu (State.setLink_ahead f o now hdiffers hslave hreference hahead) rfl
      rfl rfl
  · rw [← hlink] at hdiffers hslave hreference
    have hset := State.setLink_passed f o now hdiffers hslave hreference hpassed
    obtain ⟨htmode, htstate, htformat, htoffset⟩ := State.ownInstant_settings _ now
    have hserved := setLink_sets h hmode hformat hoffset hu hset htmode htformat htoffset
    rw [htstate] at hserved
    exact ⟨_, execFrameInstant_own hup (u.link.changed_state_ne_slave m f o), hserved⟩

end Sys2Proof.Machine

/-! SUPPORT. The rumble driver in good order after each of its own operations: new requests, patterns, rumble units (R155 to
R162). -/

namespace Sys2Proof.Machine

open Sys2Proof

/-! ### The waiting queue and the current request -/

/-- A waiting queue that the driver can hold: at most 4 long, in descending priority, of loaded patterns (R159). -/
def Rumble.QueueWf (r : Rumble) (queue : List RumbleRequest) : Prop :=
  queue.length ≤ Config.waitingCapacity ∧ queue.Pairwise (fun a b => b.priority ≤ a.priority) ∧
    ∀ q ∈ queue, r.loaded q.pattern = true

theorem Rumble.Wf.queueWf {r : Rumble} (h : r.Wf) : r.QueueWf r.queue := by
  obtain ⟨-, -, hlength, hsorted, hloaded, -⟩ := h
  exact ⟨hlength, hsorted, hloaded⟩

/-- With a request current, the waiting queue may hold what a queue can, and the kick mark may stand when the kick is on. -/
theorem Rumble.wf_of_current {r : Rumble} (h : r.Wf) {c : CurrentRequest} (hcurrent : r.CurrentWf c)
    {queue : List RumbleRequest} (hqueue : r.QueueWf queue) {kick : Bool} (hkick : kick = true → r.kickSetting = true) :
    Rumble.Wf { r with current := some c, queue := queue, kick := kick } := by
  obtain ⟨hpatterns, -, -, -, -, -, -, hranges⟩ := h
  obtain ⟨hlength, hsorted, hloaded⟩ := hqueue
  refine ⟨hpatterns, ?_, hlength, hsorted, hloaded, nofun, hkick, hranges⟩
  rintro _ ⟨⟩
  exact hcurrent

theorem Rumble.currentWf_asCurrent {r : Rumble} {q : RumbleRequest} (h : r.loaded q.pattern = true) :
    r.CurrentWf q.asCurrent := ⟨h, nofun⟩

theorem Rumble.QueueWf.sublist {r : Rumble} {queue rest : List RumbleRequest} (h : r.QueueWf queue)
    (hrest : rest.Sublist queue) : r.QueueWf rest := by
  obtain ⟨hlength, hsorted, hloaded⟩ := h
  exact ⟨hrest.length_le.trans hlength, hsorted.sublist hrest, fun q hq => hloaded q (hrest.subset hq)⟩

theorem Rumble.QueueWf.join {r : Rumble} {queue : List RumbleRequest} (h : r.QueueWf queue)
    (hroom : queue.length < Config.waitingCapacity) {q : RumbleRequest} (hq : r.loaded q.pattern = true) :
    r.QueueWf (joinQueue q queue) := by
  obtain ⟨-, hsorted, hloaded⟩ := h
  refine ⟨(joinQueue_length q queue).trans_le hroom, joinQueue_sorted hsorted, fun x hx => ?_⟩
  obtain rfl | hx := mem_joinQueue.1 hx
  · exact hq
  · exact hloaded x hx

/-! ### Stopping and the settings (R167, R169 to R173) -/

theorem Rumble.reset_wf : Rumble.reset.Wf := by simp [Rumble.Wf, Pattern.Wf, Rumble.reset]

theorem Rumble.stop_wf {r : Rumble} (h : r.Wf) : r.stop.Wf := by
  obtain ⟨hpatterns, -, -, -, -, -, -, hranges⟩ := h
  exact ⟨hpatterns, nofun, Nat.zero_le _, .nil, nofun, fun _ => ⟨rfl, rfl⟩, nofun, hranges⟩

/-- With nothing waiting, a driver whose current request goes is stopped. -/
theorem Rumble.stop_of_queue_nil {r : Rumble} (h : r.queue = []) :
    r.stop = { r with current := none, kick := false } := by
  rw [Rumble.stop, ← h]

theorem Rumble.wf_of_dropped {r : Rumble} (h : r.Wf) {dropped : Nat} (hdropped : dropped ≤ Config.maxDropped) :
    Rumble.Wf { r with droppedCues := dropped } := by
  obtain ⟨hpatterns, hcurrent, hlength, hsorted, hloaded, hstill, hkick, hceiling, hstrength, -⟩ := h
  exact ⟨hpatterns, hcurrent, hlength, hsorted, hloaded, hstill, hkick, hceiling, hstrength, hdropped⟩

theorem Rumble.wf_of_ceiling {r : Rumble} (h : r.Wf) {ceiling : Nat} (hceiling : ceiling ≤ 255) :
    Rumble.Wf { r with ceiling := ceiling } := by
  obtain ⟨hpatterns, hcurrent, hlength, hsorted, hloaded, hstill, hkick, -, hrest⟩ := h
  exact ⟨hpatterns, hcurrent, hlength, hsorted, hloaded, hstill, hkick, hceiling, hrest⟩

/-- The kick mark clears when the kick is turned off (R167). -/
theorem Rumble.wf_of_settings {r : Rumble} (h : r.Wf) {strength : Nat} (hstrength : strength ≤ 15) (kick : Bool) :
    Rumble.Wf { r with strength := strength, kickSetting := kick, kick := r.kick && kick } := by
  obtain ⟨hpatterns, hcurrent, hlength, hsorted, hloaded, hstill, -, hceiling, -, hdropped⟩ := h
  refine ⟨hpatterns, hcurrent, hlength, hsorted, hloaded, fun hnone => ?_, fun hset => (Bool.and_eq_true_iff.1 hset).2,
    hceiling, hstrength, hdropped⟩
  obtain ⟨hqueue, hclear⟩ := hstill hnone
  exact ⟨hqueue, by dsimp only; rw [hclear, Bool.false_and]⟩

theorem ceilingOf_le (v : Nat) : ceilingOf v ≤ 255 := by
  unfold ceilingOf
  split
  next => exact le_rfl
  next hbelow =>
    split
    · simp only [Config.ceilingFull, Config.ceilingZero] at hbelow ⊢
      omega
    · exact Nat.zero_le _

theorem Rumble.read_wf {r : Rumble} (h : r.Wf) (v : Nat) : (r.read v).Wf := Rumble.wf_of_ceiling h (ceilingOf_le v)

/-! ### New requests (R158, R159) -/

theorem Rumble.countLost_eq (r : Rumble) (q : RumbleRequest) :
    r.countLost q =
      { r with droppedCues := if q.origin = .cue then min 255 (r.droppedCues + 1) else r.droppedCues } := by
  unfold Rumble.countLost
  cases q.origin <;> rfl

theorem Rumble.countLost_wf {r : Rumble} (h : r.Wf) (q : RumbleRequest) : (r.countLost q).Wf := by
  obtain ⟨-, -, -, -, -, -, -, -, -, hdropped⟩ := id h
  rw [Rumble.countLost_eq]
  refine Rumble.wf_of_dropped h ?_
  split
  · exact Nat.min_le_left _ _
  · exact hdropped

/-- A queue in the driver's place that is no worse, while a request is current. -/
theorem Rumble.wf_of_queue {r : Rumble} (h : r.Wf) (hcurrent : r.current ≠ none) {queue : List RumbleRequest}
    (hqueue : r.QueueWf queue) : Rumble.Wf { r with queue := queue } := by
  obtain ⟨c, hc⟩ := Option.ne_none_iff_exists'.1 hcurrent
  obtain ⟨-, hwf, -, -, -, -, hkick, -⟩ := id h
  have := Rumble.wf_of_current h (hwf c hc) hqueue hkick
  rwa [← hc] at this

theorem Rumble.request_wf {r : Rumble} (h : r.Wf) (q : RumbleRequest) : (r.request q).1.Wf := by
  have hqueue := h.queueWf
  obtain ⟨-, -, -, -, -, -, hkick, -⟩ := id h
  obtain ⟨-, -, heq⟩ | ⟨-, heq⟩ | ⟨hloaded, hrows⟩ := r.request_cases q
  · rwa [heq]
  · rwa [heq]
  obtain ⟨-, heq⟩ | ⟨c, hc, ⟨-, heq⟩ | ⟨-, hroom, heq⟩ | ⟨-, -, ⟨last, hlast, -, heq⟩ | heq⟩⟩ := hrows <;> rw [heq]
  · exact Rumble.wf_of_current h (Rumble.currentWf_asCurrent hloaded) hqueue hkick
  · exact Rumble.wf_of_current h (Rumble.currentWf_asCurrent hloaded) hqueue nofun
  · exact Rumble.wf_of_queue h (by simp [hc]) (hqueue.join hroom hloaded)
  · have hne : r.queue ≠ [] := by
      rintro hnil
      simp [hnil] at hlast
    have hroom : r.queue.dropLast.length < Config.waitingCapacity := by
      rw [List.length_dropLast]
      exact Nat.lt_of_lt_of_le (Nat.sub_lt (List.length_pos_of_ne_nil hne) Nat.one_pos) hqueue.1
    have hlost := Rumble.countLost_wf h last
    refine Rumble.wf_of_queue hlost (by simp [hc]) ?_
    exact Rumble.QueueWf.join (hlost.queueWf.sublist (by simpa using List.dropLast_sublist _)) hroom
      (by simpa [Rumble.loaded] using hloaded)
  · exact Rumble.countLost_wf h q

/-! ### Patterns (R155, R156) -/

/-- The step that stands at a place of the transfer buffer, a duration of 0 taken as 1 (R156, 11.4). -/
def bufferStep (bytes : List Byte) (k : Nat) : RumbleStep :=
  { level := (bytes[2 * k]?.getD 0).toNat, duration := max 1 (bytes[2 * k + 1]?.getD 0).toNat }

theorem stepsOf_eq {n : Nat} {bytes : List Byte} (h : 2 * n ≤ bytes.length) :
    stepsOf n bytes = (List.range n).map (bufferStep bytes) := by
  induction n generalizing bytes with
  | zero => rfl
  | succ n ih =>
    match bytes with
    | level :: duration :: rest =>
      simp only [List.length_cons] at h
      rw [stepsOf, ih (by omega), List.range_succ_eq_map, List.map_cons, List.map_map]
      rfl
    | [_] | [] =>
      simp only [List.length_cons, List.length_nil] at h
      omega

theorem bufferStep_ranges (bytes : List Byte) (k : Nat) :
    (bufferStep bytes k).level ≤ 255 ∧ 1 ≤ (bufferStep bytes k).duration ∧ (bufferStep bytes k).duration ≤ 255 := by
  simp only [bufferStep]
  omega

/-- A pattern that LOAD-PATTERN takes from the transfer buffer (R155, R156). -/
theorem Pattern.wf_of_buffer (buffer : Table Byte 64) {count repeats : Nat} (hcount : count ≤ 32)
    (hrepeats : repeats ≤ 15) : Pattern.Wf { steps := stepsOf count buffer.items, repeats := repeats } := by
  rw [stepsOf_eq (by rw [buffer.size]; omega)]
  refine ⟨by simpa [Config.stepCapacity] using hcount, hrepeats, fun st hst => ?_⟩
  obtain ⟨k, -, rfl⟩ := List.mem_map.1 hst
  exact bufferStep_ranges _ k

theorem Rumble.loaded_replace (r : Rumble) (i : Fin 16) (p : Pattern) (j : Fin 16) :
    (r.replace i p).loaded j = if i = j then !p.steps.isEmpty else r.loaded j := by
  simp only [Rumble.loaded, Rumble.replace, Table.get_set]
  split <;> rfl

/-- What waits after a pattern is replaced: a pattern no longer loaded is no longer waited for (R156). -/
theorem Rumble.replace_queueWf {r : Rumble} (h : r.Wf) (i : Fin 16) (p : Pattern) :
    (r.replace i p).QueueWf (r.replace i p).queue := by
  obtain ⟨hlength, hsorted, hloaded⟩ := h.queueWf
  cases hempty : p.steps.isEmpty with
  | true =>
    have hqueue : (r.replace i p).queue = r.queue.filter fun q => q.pattern != i := by simp [Rumble.replace, hempty]
    rw [hqueue]
    refine ⟨(List.length_filter_le _ _).trans hlength, hsorted.filter _, fun q hq => ?_⟩
    obtain ⟨hmem, hother⟩ := List.mem_filter.1 hq
    rw [Rumble.loaded_replace, if_neg (Ne.symm (bne_iff_ne.1 hother))]
    exact hloaded q hmem
  | false =>
    have hqueue : (r.replace i p).queue = r.queue := by simp [Rumble.replace, hempty]
    rw [hqueue]
    refine ⟨hlength, hsorted, fun q hq => ?_⟩
    rw [Rumble.loaded_replace, hempty]
    split
    · rfl
    · exact hloaded q hq

theorem Rumble.replace_patterns_wf {r : Rumble} (h : r.Wf) (i : Fin 16) {p : Pattern} (hp : p.Wf) (j : Fin 16) :
    ((r.replace i p).patterns.get j).Wf := by
  obtain ⟨hpatterns, -⟩ := h
  rw [Rumble.replace, Table.get_set]
  split
  · exact hp
  · exact hpatterns j

theorem Rumble.playsPattern_of_some {r : Rumble} {c : CurrentRequest} (h : r.current = some c) (i : Fin 16) :
    r.playsPattern i = (c.request.pattern == i) := by
  rw [Rumble.playsPattern, h]
  rfl

/-- A current request that names another pattern plays on. -/
theorem Rumble.replace_wf {r : Rumble} (h : r.Wf) {i : Fin 16} {p : Pattern} (hp : p.Wf)
    (hother : r.playsPattern i = false) : (r.replace i p).Wf := by
  obtain ⟨-, hcurrent, -, -, -, hstill, hranges⟩ := id h
  obtain ⟨hlength, hsorted, hloaded⟩ := Rumble.replace_queueWf h i p
  refine ⟨Rumble.replace_patterns_wf h i hp, fun c hc => ?_, hlength, hsorted, hloaded, fun hnone => ?_, hranges⟩
  · have hc : r.current = some c := hc
    obtain ⟨hplays, hplaying⟩ := hcurrent c hc
    rw [Rumble.playsPattern_of_some hc, beq_eq_false_iff_ne] at hother
    refine ⟨?_, ?_⟩
    · rw [Rumble.loaded_replace, if_neg hother.symm]
      exact hplays
    · rw [Rumble.replace, Table.get_set_other _ _ hother.symm]
      exact hplaying
  · obtain ⟨hqueue, hkick⟩ := hstill hnone
    exact ⟨by simp [Rumble.replace, hqueue], hkick⟩

/-- The head of the queue takes the place of a current request that is gone (R156). -/
theorem Rumble.passOn_wf {r : Rumble} (hstopped : r.stop.Wf) (hqueue : r.QueueWf r.queue) : r.passOn.Wf := by
  unfold Rumble.passOn
  split
  next hnil => rwa [← Rumble.stop_of_queue_nil hnil]
  next q rest hcons =>
    rw [hcons] at hqueue
    obtain ⟨-, -, hloaded⟩ := id hqueue
    exact Rumble.wf_of_current hstopped (Rumble.currentWf_asCurrent (hloaded q List.mem_cons_self))
      (hqueue.sublist (List.sublist_cons_self q rest)) nofun

/-- A current request that names the replaced pattern ends (R156). -/
theorem Rumble.replace_passOn_wf {r : Rumble} (h : r.Wf) (i : Fin 16) {p : Pattern} (hp : p.Wf) :
    (r.replace i p).passOn.Wf := by
  obtain ⟨-, -, -, -, -, -, -, hranges⟩ := id h
  exact Rumble.passOn_wf ⟨Rumble.replace_patterns_wf h i hp, nofun, Nat.zero_le _, .nil, nofun, fun _ => ⟨rfl, rfl⟩,
    nofun, hranges⟩ (Rumble.replace_queueWf h i p)

/-! ### Rumble units (R161, R162) -/

/-- A step of a loaded pattern starts, with plays left in their range. -/
theorem Rumble.startStep_wf {r : Rumble} (h : r.Wf) (dutyBefore : Nat) {q : RumbleRequest} {position : Nat}
    (hposition : position < (r.patterns.get q.pattern).steps.length) {plays : Plays} (hplays : plays.Wf) :
    (r.startStep dutyBefore q position plays).Wf := by
  obtain ⟨hpatterns, -⟩ := id h
  obtain ⟨-, -, hsteps⟩ := hpatterns q.pattern
  obtain ⟨-, hshort, hlong⟩ := hsteps _ (List.getElem_mem hposition)
  rw [Rumble.startStep_begins (List.getElem?_eq_getElem hposition)]
  refine Rumble.wf_of_current h ⟨?_, ?_⟩ h.queueWf fun hkick => (of_decide_eq_true hkick).1
  · simp [Rumble.loaded, List.ne_nil_of_length_pos (Nat.zero_lt_of_lt hposition)]
  · rintro _ ⟨⟩
    exact ⟨hposition, hshort, hlong, hplays⟩

theorem Rumble.length_pos_of_loaded {r : Rumble} {i : Fin 16} (h : r.loaded i = true) :
    0 < (r.patterns.get i).steps.length := by
  simpa [Rumble.loaded, List.length_pos_iff_ne_nil] using h

theorem playsOf_wf {repeats : Nat} (h : repeats ≤ 15) : (playsOf repeats).Wf := by
  unfold playsOf
  split
  next => trivial
  next hleft => exact Nat.le_of_lt_succ (Nat.lt_of_le_of_ne h hleft)

theorem Rumble.startRequest_wf {r : Rumble} (h : r.Wf) (dutyBefore : Nat) {q : RumbleRequest}
    (hloaded : r.loaded q.pattern = true) : (r.startRequest dutyBefore q).Wf := by
  obtain ⟨hpatterns, -⟩ := id h
  obtain ⟨-, hrepeats, -⟩ := hpatterns q.pattern
  exact Rumble.startStep_wf h dutyBefore (Rumble.length_pos_of_loaded hloaded) (playsOf_wf hrepeats)

/-- With its kick mark cleared a driver stays in good order. -/
theorem Rumble.wf_of_kick_clear {r : Rumble} (h : r.Wf) : Rumble.Wf { r with kick := false } := by
  obtain ⟨hpatterns, hcurrent, hlength, hsorted, hloaded, hstill, -, hranges⟩ := h
  refine ⟨hpatterns, hcurrent, hlength, hsorted, hloaded, fun hnone => ?_, nofun, hranges⟩
  obtain ⟨hqueue, -⟩ := hstill hnone
  exact ⟨hqueue, rfl⟩

theorem Rumble.finish_wf {r : Rumble} (h : r.Wf) (hcurrent : r.current ≠ none) (dutyBefore : Nat) :
    (r.finish dutyBefore).Wf := by
  have hqueue := h.queueWf
  unfold Rumble.finish
  split
  next hnil =>
    rw [← Rumble.stop_of_queue_nil hnil]
    exact Rumble.stop_wf h
  next q rest hcons =>
    rw [hcons] at hqueue
    obtain ⟨-, -, hloaded⟩ := id hqueue
    refine Rumble.startRequest_wf (r := { r with queue := rest, kick := false }) ?_ dutyBefore
      (hloaded q List.mem_cons_self)
    exact Rumble.wf_of_queue (r := { r with kick := false }) (Rumble.wf_of_kick_clear h) hcurrent
      (hqueue.sublist (List.sublist_cons_self q rest))

theorem Rumble.endStep_wf {r : Rumble} (h : r.Wf) {q : RumbleRequest} {p : Playing}
    (hcurrent : r.current = some { request := q, playing := some p }) (dutyBefore : Nat) :
    (r.endStep dutyBefore q p).Wf := by
  obtain ⟨-, hwf, -⟩ := id h
  obtain ⟨hloaded, hplaying⟩ := hwf _ hcurrent
  obtain ⟨-, -, -, hplays⟩ := hplaying p rfl
  have hfirst : 0 < (r.patterns.get q.pattern).steps.length := Rumble.length_pos_of_loaded hloaded
  unfold Rumble.endStep
  split
  · exact Rumble.startStep_wf h dutyBefore ‹_› hplays
  · split
    next => exact Rumble.startStep_wf h dutyBefore hfirst trivial
    next n hleft =>
      rw [hleft] at hplays
      exact Rumble.startStep_wf h dutyBefore hfirst (Nat.le_of_succ_le hplays)
    next => exact Rumble.finish_wf h (by simp [hcurrent]) dutyBefore

theorem Rumble.unit_wf {r : Rumble} (h : r.Wf) : r.unit.Wf := by
  have hclear := Rumble.wf_of_kick_clear h
  obtain ⟨-, hwf, -⟩ := id h
  unfold Rumble.unit
  split
  next => exact h
  next c hc =>
    obtain ⟨hloaded, hplaying⟩ := hwf c hc
    split
    next => exact Rumble.startRequest_wf hclear _ hloaded
    next p hp =>
      split
      next => exact Rumble.endStep_wf hclear (hc.trans (by rw [← hp])) _
      next hleft =>
        obtain ⟨hposition, -, hlong, hplays⟩ := hplaying p hp
        have hcounted : r.CurrentWf { c with playing := some { p with unitsLeft := p.unitsLeft - 1 } } := by
          refine ⟨hloaded, ?_⟩
          rintro _ ⟨⟩
          exact ⟨hposition, Nat.one_le_iff_ne_zero.2 hleft, (Nat.sub_le _ _).trans hlong, hplays⟩
        exact Rumble.wf_of_current h hcounted h.queueWf (kick := false) nofun

end Sys2Proof.Machine

/-! The good order of the rumble driver (O57): what every command keeps of patterns, current request, queue and counts. -/

namespace Sys2Proof.Machine

open Sys2Proof

/-- The rumble driver of a state in good order. -/
def State.RumbleWf (s : State) : Prop := s.rumble.Wf

theorem State.rumbleWf_of_eq {s t : State} (h : s.RumbleWf) (heq : t.rumble = s.rumble) : t.RumbleWf := by
  rwa [State.RumbleWf, heq]

theorem State.wake_rumbleWf {s : State} (h : s.RumbleWf) : s.wake.RumbleWf := by
  unfold State.wake
  split <;> exact h

/-- Neither the sound engine's nor the link's part of a SOFT-RESET moves the driver (R189). -/
@[simp] theorem State.softResetSoundAndLink_rumble (s : State) (now : Instant) :
    (s.softResetSoundAndLink now).rumble = s.rumble := by
  simp only [State.softResetSoundAndLink, State.softResetLink]
  split
  · split <;> simp
  · simp

theorem State.softReset_rumbleWf {s : State} (h : s.RumbleWf) (now : Instant) : (s.softReset now).RumbleWf :=
  Rumble.stop_wf (r := (s.softResetSoundAndLink now).rumble) (State.rumbleWf_of_eq h (s.softResetSoundAndLink_rumble now))

theorem State.takeReading_rumbleWf {s : State} (h : s.RumbleWf) (r : Reading) : (s.takeReading r).RumbleWf := by
  obtain ⟨-, -, heq⟩ | ⟨-, -, heq⟩ | ⟨-, -, heq⟩ | ⟨-, -, heq⟩ := s.takeReading_cases r <;> rw [heq]
  · exact h
  · exact Rumble.reset_wf
  · exact Rumble.read_wf h _
  · exact Rumble.reset_wf

theorem submit_rumbleWf {s : State} (h : s.RumbleWf) {bytes : List Byte} {act : Bool → State → State}
    (hact : ∀ woke u, u.RumbleWf → (act woke u).RumbleWf) : (submit bytes act s).RumbleWf :=
  submit_cases (P := State.RumbleWf) h h fun _ woke => hact woke _ (State.wake_rumbleWf h)

theorem exec_rumbleWf {c : Instr} {s t : State} (hs : s.RumbleWf) (h : exec c s = .next t) : t.RumbleWf := by
  cases c
  case softReset now =>
    cases h
    exact submit_rumbleWf hs fun _ u hu => State.softReset_rumbleWf hu now
  case quiesce =>
    cases h
    refine submit_rumbleWf hs fun _ u hu => ?_
    split
    · exact hu
    · exact Rumble.stop_wf (r := u.rumble) hu
  case loadPattern pattern count repeats =>
    cases h
    refine submit_rumbleWf hs fun _ u hu => ?_
    split
    · split
      · exact hu
      next hin =>
        simp only [Bool.or_eq_true, decide_eq_true_eq, not_or, Nat.not_lt] at hin
        have hpattern := Pattern.wf_of_buffer u.window.buffer hin.1 hin.2
        dsimp only
        split
        · exact Rumble.replace_passOn_wf hu _ hpattern
        next hother => exact Rumble.replace_wf hu hpattern (Bool.eq_false_iff.2 hother)
    · exact hu
  case playPattern =>
    cases h
    refine submit_rumbleWf hs fun _ u hu => ?_
    split
    · exact Rumble.request_wf hu _
    · exact hu
  case stopRumble =>
    cases h
    exact submit_rumbleWf hs fun _ u hu => Rumble.stop_wf hu
  case setRumble =>
    cases h
    refine submit_rumbleWf hs fun _ u hu => ?_
    split
    · exact hu
    · exact Rumble.wf_of_settings hu (Nat.min_le_left _ _) _
  case readRumble =>
    cases h
    exact submit_rumbleWf hs fun _ u hu => Rumble.wf_of_dropped hu (Nat.zero_le _)
  case cue =>
    cases h
    split
    · exact hs
    · exact Rumble.request_wf hs _
  case rumbleUnit =>
    cases h
    split
    · exact Rumble.unit_wf hs
    · exact hs
  case minuteEvent =>
    cases h
    split
    · exact hs
    · dsimp only
      split
      · exact hs
      · split
        · exact hs
        · exact State.takeReading_rumbleWf (by exact hs) _
  case supplyReading | wakeEvent =>
    cases h
    split
    · exact State.takeReading_rumbleWf (by exact hs) _
    · exact hs
  case consoleReset =>
    cases h
    dsimp only
    split
    · exact Rumble.reset_wf
    · exact hs
  case keepDomainStop | cellReset =>
    cases h
    exact Rumble.reset_wf
  all_goals
    obtain heq | heq := exec_keeps_rumble rfl h
    · exact State.rumbleWf_of_eq hs heq
    · exact State.rumbleWf_of_eq (State.wake_rumbleWf hs) heq

/-- Settles O57: each command's effect on the driver is made of its own operations, and each keeps the good order. -/
theorem rumbleWfKept : Obligations.RumbleWfKept := fun _ _ hs h =>
  step_keeps (P := State.RumbleWf) (fun _ _ => id) (fun _ _ _ => exec_rumbleWf) hs h

end Sys2Proof.Machine

/-! PLAY-PATTERN and the cues (O53): the rows of a new request, one equation each, and what each answers. -/

namespace Sys2Proof.Machine

open Sys2Proof

/-! ### Where a request joins the queue (R159) -/

/-- A request joins behind every queued request of its priority or higher, and before the others. -/
theorem joinQueue_eq {q : RumbleRequest} {queue : List RumbleRequest}
    (h : queue.Pairwise fun a b => b.priority ≤ a.priority) :
    joinQueue q queue =
      queue.filter (fun x => decide (q.priority ≤ x.priority)) ++
        q :: queue.filter fun x => decide (x.priority < q.priority) := by
  induction queue with
  | nil => rfl
  | cons y rest ih =>
    obtain ⟨hhead, htail⟩ := List.pairwise_cons.1 h
    rw [joinQueue]
    split
    next hlower =>
      have hall : ∀ x ∈ y :: rest, x.priority < q.priority := by
        rintro x (_ | ⟨_, hx⟩)
        · exact hlower
        · exact (hhead x hx).trans_lt hlower
      rw [List.filter_eq_nil_iff.2 fun x hx => by simpa using hall x hx,
        List.filter_eq_self.2 fun x hx => by simpa using hall x hx, List.nil_append]
    next hnot =>
      rw [ih htail, List.filter_cons_of_pos (by simpa using hnot), List.filter_cons_of_neg (by simpa using hnot),
        List.cons_append]

/-! ### The rows of a new request (R158) -/

section

variable {r : Rumble} {q : RumbleRequest}

theorem Rumble.request_quiet (hquiet : r.quiet = true) (hcue : q.origin = .cue) : r.request q = (r, .quiet) := by
  rw [Rumble.request, hquiet, hcue]
  rfl

variable (hheard : r.quiet = false ∨ q.origin = .console)
include hheard

/-- A request that the quiet mark does not hold back is looked at. -/
theorem Rumble.not_quieted : (r.quiet && q.origin == .cue) = false := by
  obtain hloud | hconsole := hheard
  · rw [hloud, Bool.false_and]
  · rw [hconsole]
    exact Bool.and_false _

theorem Rumble.request_noPattern (hloaded : r.loaded q.pattern = false) : r.request q = (r, .noPattern) := by
  simp [Rumble.request, Rumble.not_quieted hheard, hloaded]

variable (hloaded : r.loaded q.pattern = true)
include hloaded

theorem Rumble.request_began (hnone : r.current = none) :
    r.request q = ({ r with current := some q.asCurrent }, .began) := by
  simp [Rumble.request, Rumble.not_quieted hheard, hloaded, hnone]

variable {c : CurrentRequest} (hc : r.current = some c)
include hc

theorem Rumble.request_preempted (hhigher : c.request.priority < q.priority) :
    r.request q = ({ r with current := some q.asCurrent, kick := false }, .preempted c.request) := by
  simp [Rumble.request, Rumble.not_quieted hheard, hloaded, hc, hhigher]

variable (hnot : q.priority ≤ c.request.priority)
include hnot

theorem Rumble.request_queued (hroom : r.queue.length < 4) :
    r.request q = ({ r with queue := joinQueue q r.queue }, .queued) := by
  simp [Rumble.request, Rumble.not_quieted hheard, hloaded, hc, not_lt.2 hnot, Config.waitingCapacity, hroom]

variable (hfull : r.queue.length = 4) {last : RumbleRequest} (hlast : r.queue.getLast? = some last)
include hfull hlast

theorem Rumble.request_displaced (hlower : last.priority < q.priority) :
    r.request q = ({ r.countLost last with queue := joinQueue q r.queue.dropLast }, .displaced last) := by
  simp [Rumble.request, Rumble.not_quieted hheard, hloaded, hc, not_lt.2 hnot, Config.waitingCapacity, hfull, hlast,
    hlower]

theorem Rumble.request_queueFull (hkept : q.priority ≤ last.priority) :
    r.request q = (r.countLost q, .queueFull) := by
  simp [Rumble.request, Rumble.not_quieted hheard, hloaded, hc, not_lt.2 hnot, Config.waitingCapacity, hfull, hlast,
    not_lt.2 hkept]

end

/-! ### What PLAY-PATTERN answers (R160) -/

theorem Origin.code_eq (o : Origin) : o.code = if o = .console then 0 else 1 := by
  cases o <;> rfl

theorem refusedPlay_eq (r : Rumble) :
    refusedPlay r = [nat1 r.queue.length, r.current.elim 255 fun c => nat1 c.request.priority.val] := by
  unfold refusedPlay
  cases r.current <;> rfl

/-! ### The new request at the part (R158, R168) -/

/-- A new request leaves the supply-low mark alone. -/
theorem Rumble.request_supplyLow (r : Rumble) (q : RumbleRequest) : (r.request q).1.supplyLow = r.supplyLow := by
  obtain ⟨-, -, heq⟩ | ⟨-, heq⟩ | ⟨-, ⟨-, heq⟩ | ⟨c, -, ⟨-, heq⟩ | ⟨-, -, heq⟩ | ⟨-, -, ⟨last, -, -, heq⟩ | heq⟩⟩⟩ :=
    r.request_cases q <;> rw [heq]
  · simp
  · simp

theorem Rumble.state_eq_still {r : Rumble} : r.state = .still ↔ r.current = none := by
  unfold Rumble.state
  cases r.current with
  | none => simp
  | some c => cases r.supplyLow <;> simp

theorem Rumble.state_eq_halted {r : Rumble} : r.state = .halted ↔ r.current ≠ none ∧ r.supplyLow = true := by
  unfold Rumble.state
  cases r.current with
  | none => simp
  | some c => cases r.supplyLow <;> simp

/-- A new request moves the driver, and raises POWER "rumble halted" when it enters HALTED from STILL. -/
theorem State.rumbleRequest_eq (s : State) (q : RumbleRequest) :
    s.rumbleRequest q =
      { s with
        rumble := (s.rumble.request q).1
        notices :=
          if s.rumble.current = none ∧ (s.rumble.request q).1.current ≠ none ∧ s.rumble.supplyLow = true then
            { s.notices with power := { s.notices.power with pending := true, halted := true } }
          else s.notices } := by
  have hcomes : (s.rumble.state == .still && (s.rumble.request q).1.state == .halted) = true ↔
      s.rumble.current = none ∧ (s.rumble.request q).1.current ≠ none ∧ s.rumble.supplyLow = true := by
    rw [Bool.and_eq_true, beq_iff_eq, beq_iff_eq, Rumble.state_eq_still, Rumble.state_eq_halted,
      Rumble.request_supplyLow]
  simp only [State.rumbleRequest, Notices.raiseIf, hcomes, Notices.raiseHalted]

section

variable {pattern priority : Byte} {s : State} (h : s.Accepts)
include h

theorem playPattern_refused (hbad : 15 < pattern.toNat ∨ 3 < priority.toNat) :
    Answers (.playPattern pattern priority) s .range [] := by
  rw [Answers, ServedAs, exec_served h rfl, dif_neg (by omega)]

theorem playPattern_requests {p : Fin 16} {n : Fin 4} (hp : pattern.toNat = p.val) (hn : priority.toNat = n.val)
    {q : RumbleRequest} (hq : q = { pattern := p, priority := n, origin := .console }) :
    ServedAs (.playPattern pattern priority) s fun u =>
      (u.rumbleRequest q).answer (playAnswer u.rumble (u.rumble.request q).1 q (u.rumble.request q).2).1
        (playAnswer u.rumble (u.rumble.request q).1 q (u.rumble.request q).2).2 := by
  obtain ⟨i, hi⟩ := p
  obtain ⟨j, hj⟩ := n
  subst hp hn hq
  rw [ServedAs, exec_served h rfl, dif_pos ⟨hi, hj⟩]

end

theorem execCue_takes {s : State} {c : Cue} {rest : List Cue} (h : s.sound.cues = c :: rest) :
    execCue s =
      .next ({ s with sound := { s.sound with cues := rest } }.rumbleRequest
        { pattern := c.pattern, priority := c.priority, origin := .cue }) := by
  rw [execCue, h]

/-- Settles O53: the rows in their order, each with its answer; then PLAY-PATTERN and CUE, which are such a request. -/
theorem newRumbleRequests : Obligations.NewRumbleRequests := by
  refine ⟨fun q r r' code data hwf hr' hanswer => ⟨fun hquiet hcue => ?_, fun hheard => ⟨fun hloaded => ?_,
    fun hloaded => ⟨fun hnone => ?_, fun c hc => ⟨fun hhigher => ?_,
      fun hnot base ahead behind hbase hahead hbehind => ?_⟩⟩⟩⟩,
    fun pattern priority s h => ⟨playPattern_refused h, fun p n q hp hn hq => ?_⟩, fun s c rest q hcues hq => ?_⟩
  · rw [hr', Rumble.request_quiet hquiet hcue]
  · rw [Rumble.request_noPattern hheard hloaded] at hr' hanswer
    subst hr'
    obtain ⟨rfl, rfl⟩ := Prod.mk.inj hanswer
    exact ⟨rfl, rfl, refusedPlay_eq _⟩
  · rw [Rumble.request_began hheard hloaded hnone] at hr' hanswer
    subst hr'
    obtain ⟨rfl, rfl⟩ := Prod.mk.inj hanswer
    exact ⟨rfl, rfl, rfl⟩
  · rw [Rumble.request_preempted hheard hloaded hc hhigher] at hr' hanswer
    subst hr'
    obtain ⟨rfl, rfl⟩ := Prod.mk.inj hanswer
    exact ⟨rfl, rfl, by rw [← Origin.code_eq]⟩
  · obtain ⟨-, hsorted, -⟩ := hwf.queueWf
    refine ⟨fun hroom => ?_, fun last hfull hlast => ⟨fun hlower => ?_, fun hkept => ?_⟩⟩
    · rw [if_pos hroom] at hbase
      subst hbase hahead hbehind
      rw [Rumble.request_queued hheard hloaded hc hnot hroom] at hr' hanswer
      rw [← joinQueue_eq hsorted]
      subst hr'
      obtain ⟨rfl, rfl⟩ := Prod.mk.inj hanswer
      exact ⟨rfl, rfl, by rw [joinQueue_length]; rfl⟩
    · rw [if_neg (by omega)] at hbase
      subst hbase hahead hbehind
      rw [Rumble.request_displaced hheard hloaded hc hnot hfull hlast hlower, Rumble.countLost_eq] at hr' hanswer
      rw [← joinQueue_eq (hsorted.sublist (List.dropLast_sublist _)), ← Origin.code_eq]
      subst hr'
      obtain ⟨rfl, rfl⟩ := Prod.mk.inj hanswer
      exact ⟨rfl, rfl, by simp only [joinQueue_length, List.length_dropLast, hfull]; rfl⟩
    · rw [Rumble.request_queueFull hheard hloaded hc hnot hfull hlast hkept] at hr' hanswer
      rw [← Rumble.countLost_eq]
      subst hr'
      obtain ⟨rfl, rfl⟩ := Prod.mk.inj hanswer
      refine ⟨rfl, rfl, ?_⟩
      rw [refusedPlay_eq, Rumble.countLost_queue, Rumble.countLost_current, hfull, hc]
      rfl
  · simpa only [State.rumbleRequest_eq] using playPattern_requests h hp hn hq
  · rw [hq]
    exact (execCue_takes hcues).trans (by rw [State.rumbleRequest_eq])

end Sys2Proof.Machine

/-! The duty (O56), and what a rumble unit makes of the driver (O55). -/

namespace Sys2Proof.Machine

open Sys2Proof

/-! ### The duty as the state stands (R164, R166) -/

theorem requestedDuty_full (level : Nat) : requestedDuty level 15 = level := by
  unfold requestedDuty
  omega

theorem requestedDuty_zero (level : Nat) : requestedDuty level 0 = 0 := by simp [requestedDuty]

theorem requestedDuty_le {level strength : Nat} (hlevel : level ≤ 255) (hstrength : strength ≤ 15) :
    requestedDuty level strength ≤ 255 := by
  have hproduct : level * strength ≤ 255 * 15 := Nat.mul_le_mul hlevel hstrength
  unfold requestedDuty
  omega

section

variable {r : Rumble}

theorem Rumble.duty_of_not_run {main : MainState} (h : main ≠ .run) : r.duty main = 0 := by
  unfold Rumble.duty
  split
  · exact absurd rfl h
  · rfl

theorem Rumble.duty_of_none (h : r.current = none) (main : MainState) : r.duty main = 0 := by
  unfold Rumble.duty
  rw [h]
  cases main <;> rfl

theorem Rumble.duty_of_supplyLow (h : r.supplyLow = true) (main : MainState) : r.duty main = 0 := by
  unfold Rumble.duty
  split
  · simp [h]
  · rfl

theorem Rumble.duty_of_not_started (h : ∀ c, r.current = some c → c.playing = none) (main : MainState) :
    r.duty main = 0 := by
  unfold Rumble.duty
  split
  next c hc => simp [CurrentRequest.started, h c hc]
  next => rfl

variable {c : CurrentRequest} (hc : r.current = some c)
include hc

theorem Rumble.requested_of_step {p : Playing} {step : RumbleStep} (hp : c.playing = some p)
    (hstep : (r.patterns.get c.request.pattern).steps[p.position]? = some step) :
    r.requested = requestedDuty step.level r.strength := by
  simp [Rumble.requested, hc, hp, Pattern.stepAt, List.getD, hstep]

/-- With the kick mark set, a step that asks for any duty has the ceiling (R167). -/
theorem Rumble.duty_of_started {p : Playing} (hp : c.playing = some p) (hsupply : r.supplyLow = false) :
    r.duty .run =
      if r.kick = true ∧ 0 < min r.ceiling r.requested then r.ceiling else min r.ceiling r.requested := by
  simp only [Rumble.duty, hc, CurrentRequest.started, hp, hsupply, Option.isSome_some, Bool.not_true, Bool.or_self,
    Bool.false_eq_true, if_false]
  cases r.kick with
  | false => simp
  | true =>
    obtain hzero | hpos := Nat.eq_zero_or_pos (min r.ceiling r.requested)
    · simp [hzero]
    · simp [hpos, hpos.ne']

end

theorem Rumble.duty_le_ceiling (r : Rumble) (main : MainState) : r.duty main ≤ r.ceiling := by
  unfold Rumble.duty
  split
  · split
    · exact Nat.zero_le _
    · split
      · split
        · exact Nat.zero_le _
        · exact le_rfl
      · exact Nat.min_le_left _ _
  · exact Nat.zero_le _

/-- Settles O56: the requested duty; the four ways to no duty; the duty of a step that plays; the bounds. -/
theorem dutyFollowsTheState : Obligations.DutyFollowsTheState := by
  refine ⟨fun _ _ => rfl, fun level => ⟨requestedDuty_full level, requestedDuty_zero level⟩,
    fun _ _ => requestedDuty_le, fun s => ⟨?_, fun c p step want hrun hc hsupply hp hstep hwant => ?_,
    s.rumble.duty_le_ceiling _, fun hwf => ?_⟩⟩
  · rintro (hmain | hnone | hsupply | hstill)
    · exact Rumble.duty_of_not_run hmain
    · exact Rumble.duty_of_none hnone _
    · exact Rumble.duty_of_supplyLow hsupply _
    · exact Rumble.duty_of_not_started hstill _
  · rw [State.duty, hrun, Rumble.duty_of_started hc hp hsupply, Rumble.requested_of_step hc hp hstep, hwant]
    rfl
  · obtain ⟨-, -, -, -, -, -, -, hceiling, -⟩ := hwf
    exact (s.rumble.duty_le_ceiling _).trans hceiling

/-! ### What a rumble unit makes of the driver (R161, R162) -/

theorem Rumble.unit_of_none {r : Rumble} (h : r.current = none) : r.unit = r := by
  rw [Rumble.unit, h]

/-- A request starts at step 0 with the plays its pattern's repeat gives. -/
theorem Rumble.startRequest_begins {r : Rumble} {q : RumbleRequest} {first : RumbleStep}
    (h : (r.patterns.get q.pattern).steps[0]? = some first) (dutyBefore : Nat) :
    r.startRequest dutyBefore q = r.begins dutyBefore q first 0 (playsOf (r.patterns.get q.pattern).repeats) :=
  Rumble.startStep_begins h _ _

section

variable {r : Rumble} {c : CurrentRequest} (hc : r.current = some c)
include hc

theorem Rumble.unit_starts (hp : c.playing = none) {first : RumbleStep}
    (hfirst : (r.patterns.get c.request.pattern).steps[0]? = some first) :
    r.unit =
      r.begins (r.duty .run) c.request first 0 (playsOf (r.patterns.get c.request.pattern).repeats) := by
  simp only [Rumble.unit, hc, hp]
  exact Rumble.startRequest_begins hfirst _

variable {p : Playing} (hp : c.playing = some p)
include hp

theorem Rumble.unit_counts (h : 1 < p.unitsLeft) :
    r.unit =
      { r with kick := false, current := some { c with playing := some { p with unitsLeft := p.unitsLeft - 1 } } } := by
  have hleft : p.unitsLeft - 1 ≠ 0 := by omega
  simp only [Rumble.unit, hc, hp, if_neg hleft]

variable (hlast : p.unitsLeft = 1)
include hlast

theorem Rumble.unit_ends_step :
    r.unit = Rumble.endStep { r with kick := false } (r.duty .run) c.request p := by
  simp only [Rumble.unit, hc, hp, hlast, if_true]

theorem Rumble.unit_next_step {next : RumbleStep}
    (hnext : (r.patterns.get c.request.pattern).steps[p.position + 1]? = some next) :
    r.unit = r.begins (r.duty .run) c.request next (p.position + 1) p.plays := by
  obtain ⟨hin, -⟩ := List.getElem?_eq_some_iff.1 hnext
  rw [Rumble.unit_ends_step hc hp hlast, Rumble.endStep, if_pos hin]
  exact Rumble.startStep_begins hnext _ _

variable (hend : (r.patterns.get c.request.pattern).steps.length = p.position + 1)
include hend

theorem Rumble.unit_replays_endless (hplays : p.plays = .endless) {first : RumbleStep}
    (hfirst : (r.patterns.get c.request.pattern).steps[0]? = some first) :
    r.unit = r.begins (r.duty .run) c.request first 0 .endless := by
  rw [Rumble.unit_ends_step hc hp hlast, Rumble.endStep, if_neg (by simp [hend]), hplays]
  exact Rumble.startStep_begins hfirst _ _

theorem Rumble.unit_replays {k : Nat} (hplays : p.plays = .left (k + 1)) {first : RumbleStep}
    (hfirst : (r.patterns.get c.request.pattern).steps[0]? = some first) :
    r.unit = r.begins (r.duty .run) c.request first 0 (.left k) := by
  rw [Rumble.unit_ends_step hc hp hlast, Rumble.endStep, if_neg (by simp [hend]), hplays]
  exact Rumble.startStep_begins hfirst _ _

variable (hplays : p.plays = .left 0)
include hplays

theorem Rumble.unit_finishes : r.unit = Rumble.finish { r with kick := false } (r.duty .run) := by
  rw [Rumble.unit_ends_step hc hp hlast, Rumble.endStep, if_neg (by simp [hend]), hplays]

theorem Rumble.unit_stops (hqueue : r.queue = []) : r.unit = { r with current := none, kick := false } := by
  rw [Rumble.unit_finishes hc hp hlast hend hplays]
  simp only [Rumble.finish, hqueue]

theorem Rumble.unit_passes {q : RumbleRequest} {rest : List RumbleRequest} (hqueue : r.queue = q :: rest)
    {next : RumbleStep} (hnext : (r.patterns.get q.pattern).steps[0]? = some next) :
    r.unit =
      Rumble.begins { r with queue := rest } (r.duty .run) q next 0 (playsOf (r.patterns.get q.pattern).repeats) := by
  rw [Rumble.unit_finishes hc hp hlast hend hplays]
  simp only [Rumble.finish, hqueue]
  exact Rumble.startRequest_begins (r := { r with queue := rest, kick := false }) hnext _

end

/-- In RUN a unit handed on is the driver's, and RUMBLE "done" tells of its becoming STILL. -/
theorem execRumbleUnit_handed {s : State} {n : Nat} (h : s.power.main = .run) (hunits : s.link.unitsHanded = n + 1) :
    execRumbleUnit s =
      .next { s with
        link := { s.link with unitsHanded := n }
        rumble := s.rumble.unit
        notices :=
          if s.rumble.current ≠ none ∧ s.rumble.unit.current = none then
            { s.notices with rumble := { pending := true, done := true } }
          else s.notices } := by
  simp [execRumbleUnit, h, hunits, Notices.raiseIf, Notices.raiseDone, Option.isSome_iff_ne_none]

/-- Settles O55: the driver after the unit is `Rumble.unit`, told case by case. -/
theorem rumbleUnitsProgress : Obligations.RumbleUnitsProgress := by
  intro s n hrun hunits _
  have hduty : s.duty = s.rumble.duty .run := by rw [State.duty, hrun]
  refine ⟨s.rumble.unit, execRumbleUnit_handed hrun hunits, Rumble.unit_of_none, ?_⟩
  rintro c pattern first hc rfl hfirst
  rw [hduty]
  exact ⟨fun hp => Rumble.unit_starts hc hp hfirst, fun p hp => Rumble.unit_counts hc hp, fun p hp hlast =>
    ⟨fun next => Rumble.unit_next_step hc hp hlast, fun hend =>
      ⟨fun hplays => Rumble.unit_replays_endless hc hp hlast hend hplays hfirst,
        fun k hplays => Rumble.unit_replays hc hp hlast hend hplays hfirst,
        fun hplays => Rumble.unit_stops hc hp hlast hend hplays,
        fun q rest next hplays hqueue hnext => Rumble.unit_passes hc hp hlast hend hplays hqueue hnext⟩⟩⟩

end Sys2Proof.Machine

/-! LOAD-PATTERN, STOP-RUMBLE, SET-RUMBLE and READ-RUMBLE (O54). -/

namespace Sys2Proof.Machine

open Sys2Proof

/-! ### The driver a request is served with -/

@[simp] theorem State.serving_rumble_current (c : Instr) (s : State) :
    (s.serving c).rumble.current = s.rumble.current := by
  simp only [State.serving, State.taken_rumble, State.wake]
  split <;> rfl

@[simp] theorem State.serving_rumble_queue (c : Instr) (s : State) :
    (s.serving c).rumble.queue = s.rumble.queue := by
  simp only [State.serving, State.taken_rumble, State.wake]
  split <;> rfl

@[simp] theorem State.serving_draws (c : Instr) (s : State) : (s.serving c).draws = s.draws := by
  simp [State.serving]

/-! ### The pattern in the transfer buffer (R156, 11.4) -/

/-- The places below a bound, in order. -/
theorem filterMap_finRange_below {α : Type} (f : Nat → α) {n m : Nat} (h : n ≤ m) :
    ((List.finRange m).filterMap fun k => if k.val < n then some (f k.val) else none) = (List.range n).map f := by
  obtain ⟨d, rfl⟩ := Nat.exists_eq_add_of_le h
  calc
    _ = ((List.finRange (n + d)).map Fin.val).filterMap fun k => if k < n then some (f k) else none := by
      rw [List.filterMap_map]
      rfl
    _ = _ := by
      have hbeyond :
          (((List.range d).map (n + ·)).filterMap fun k => if k < n then some (f k) else none) = [] := by
        simp
      rw [List.map_coe_finRange_eq_range, List.range_add, List.filterMap_append, hbeyond, List.append_nil,
        ← List.filterMap_eq_map]
      exact List.filterMap_congr fun k hk => if_pos (List.mem_range.1 hk)

theorem zeroDurations_eq {n : Nat} {bytes : List Byte} (h : 2 * n ≤ bytes.length) :
    zeroDurations n bytes = ((List.range n).filter fun k => bytes[2 * k + 1]?.getD 0 = 0).length := by
  induction n generalizing bytes with
  | zero => rfl
  | succ n ih =>
    match bytes with
    | level :: duration :: rest =>
      simp only [List.length_cons] at h
      rw [zeroDurations, ih (by omega), List.range_succ_eq_map, List.filter_cons, List.filter_map, Nat.add_comm]
      by_cases hzero : duration = 0#8
      · simp [hzero, Function.comp_def, Nat.mul_add]
      · simp [hzero, Function.comp_def, Nat.mul_add]
    | [_] | [] =>
      simp only [List.length_cons, List.length_nil] at h
      omega

/-- A pattern of step count 0 is not loaded. -/
theorem stepsOf_isEmpty {n : Nat} {bytes : List Byte} (h : 2 * n ≤ bytes.length) :
    (stepsOf n bytes).isEmpty = decide (n = 0) := by
  rw [stepsOf_eq h]
  cases n with
  | zero => rfl
  | succ n => simp

/-! ### The driver after a LOAD-PATTERN (R156) -/

theorem Rumble.passOn_eq (r : Rumble) :
    r.passOn =
      { r with current := r.queue.head?.map RumbleRequest.asCurrent, queue := r.queue.tail, kick := false } := by
  unfold Rumble.passOn
  split <;> simp [*]

theorem Rumble.replace_passOn_eq (r : Rumble) (i : Fin 16) (p : Pattern) (ended : Bool) {queue : List RumbleRequest}
    (hqueue : (r.replace i p).queue = queue) :
    (if ended = true then (r.replace i p).passOn else r.replace i p) =
      { r with
        patterns := r.patterns.set i p
        queue := if ended = true then queue.tail else queue
        current := if ended = true then queue.head?.map RumbleRequest.asCurrent else r.current
        kick := if ended = true then false else r.kick } := by
  subst hqueue
  cases ended with
  | false => rfl
  | true =>
    rw [if_pos rfl, Rumble.passOn_eq]
    rfl

theorem Rumble.playsPattern_eq (r : Rumble) (i : Fin 16) :
    r.playsPattern i = decide (∃ c ∈ r.current, c.request.pattern = i) := by
  cases hc : r.current with
  | none => simp [Rumble.playsPattern, hc]
  | some c => simp [Rumble.playsPattern_of_some hc, beq_eq_decide]

/-- A step count above 32 or a repeat above 15 is refused. -/
theorem loadPattern_range {count repeats : Byte} :
    (decide (Config.stepCapacity < count.toNat) || decide (Config.endlessRepeat < repeats.toNat)) = true ↔
      32 < count.toNat ∨ 15 < repeats.toNat := by
  rw [Bool.or_eq_true, decide_eq_true_iff, decide_eq_true_iff]
  rfl

section

variable {s : State} (h : s.Accepts)
include h

theorem loadPattern_refused {pattern count repeats : Byte}
    (hbad : 15 < pattern.toNat ∨ 32 < count.toNat ∨ 15 < repeats.toNat) :
    Answers (.loadPattern pattern count repeats) s .range [] := by
  rw [Answers, ServedAs, exec_served h rfl]
  dsimp only
  split
  · exact congrArg _ (if_pos (loadPattern_range.2 (by omega)))
  · rfl

/-- What is loaded, what then waits, and whether the current request ended. -/
theorem loadPattern_loads {pattern count repeats : Byte} {p : Fin 16} {steps : List RumbleStep} {zeros : Nat}
    {queue : List RumbleRequest} {ended : Bool} (hp : pattern.toNat = p.val) (hcount : count.toNat ≤ 32)
    (hrepeats : repeats.toNat ≤ 15) (hsteps : steps = stepsOf count.toNat s.window.buffer.items)
    (hzeros : zeros = zeroDurations count.toNat s.window.buffer.items)
    (hqueue : queue = if count = 0 then s.rumble.queue.filter fun q => q.pattern != p else s.rumble.queue)
    (hended : ended = s.rumble.playsPattern p) :
    ServedAs (.loadPattern pattern count repeats) s fun u =>
      { u with
        rumble :=
          { u.rumble with
            patterns := u.rumble.patterns.set p { steps := steps, repeats := repeats.toNat }
            queue := if ended = true then queue.tail else queue
            current := if ended = true then queue.head?.map RumbleRequest.asCurrent else u.rumble.current
            kick := if ended = true then false else u.rumble.kick }
        notices :=
          if ended = true ∧ queue = [] then { u.notices with rumble := { pending := true, done := true } }
          else u.notices }.answer .ok
        [pattern, count, repeats, nat1 zeros, flag1 ended, nat1 (s.rumble.queue.length - queue.length)] := by
  obtain ⟨i, hi⟩ := p
  subst hp
  have hempty : steps.isEmpty = decide (count = 0) := by
    rw [hsteps, stepsOf_isEmpty (by rw [s.window.buffer.size]; omega)]
    exact decide_eq_decide.2 (by rw [← BitVec.toNat_inj]; rfl)
  have hwaits (c : Instr) :
      ((s.serving c).rumble.replace ⟨pattern.toNat, hi⟩ { steps := steps, repeats := repeats.toNat }).queue = queue := by
    simp only [Rumble.replace, State.serving_rumble_queue, hempty, decide_eq_true_eq, hqueue]
  have hplays (c : Instr) : (s.serving c).rumble.playsPattern ⟨pattern.toNat, hi⟩ = ended := by
    rw [hended, Rumble.playsPattern, State.serving_rumble_current]
    rfl
  rw [ServedAs, exec_served h rfl, dif_pos hi, if_neg (mt loadPattern_range.1 (by omega))]
  simp only [State.serving_buffer, ← hsteps, ← hzeros, hplays, Rumble.replace_passOn_eq _ _ _ _ (hwaits _), hwaits,
    State.serving_rumble_queue]
  cases ended with
  | false => simp [Notices.raiseIf]
  | true => cases queue <;> simp [Notices.raiseIf, Notices.raiseDone]

/-! ### STOP-RUMBLE, SET-RUMBLE and READ-RUMBLE (R169 to R171) -/

theorem stopRumble_stops :
    ServedAs .stopRumble s fun u =>
      { u with rumble := { u.rumble with current := none, queue := [], kick := false } }.answer .ok
        [u.rumble.current.elim 255 fun c => nat1 c.request.pattern.val, nat1 u.rumble.queue.length] := by
  rw [ServedAs, exec_served h rfl, State.serving_rumble_current]
  cases s.rumble.current <;> rfl

theorem setRumble_refused {strength kick : Byte} (hbad : 1 < kick.toNat) :
    Answers (.setRumble strength kick) s .range [] := by
  rw [Answers, ServedAs, exec_served h rfl, if_pos hbad]

theorem setRumble_sets {strength kick : Byte} (hkick : kick.toNat ≤ 1) {u v : State}
    (hu : u = s.serving (.setRumble strength kick))
    (hv : v = { u with
      rumble :=
        { u.rumble with
          strength := min 15 strength.toNat
          kickSetting := decide (kick = 1)
          kick := u.rumble.kick && decide (kick = 1) } }) :
    exec (.setRumble strength kick) s = .next (v.answer .ok [nat1 (min 15 strength.toNat), kick, nat1 v.duty]) := by
  have hflag : flag1 (decide (kick = 1)) = kick := by
    obtain hzero | hone : kick.toNat = 0 ∨ kick.toNat = 1 := by omega
    · obtain rfl : kick = 0 := BitVec.eq_of_toNat_eq hzero
      rfl
    · obtain rfl : kick = 1 := BitVec.eq_of_toNat_eq hone
      rfl
  subst hv hu
  rw [exec_served h rfl, if_neg (Nat.not_lt.2 hkick)]
  simp only [beq_eq_decide, hflag]
  rfl

end

theorem Rumble.state_code_eq (r : Rumble) :
    r.state.code = if r.current = none then 0 else if r.supplyLow = true then 2 else 1 := by
  unfold Rumble.state
  cases r.current with
  | none => rfl
  | some c => cases r.supplyLow <;> rfl

theorem queuedData_of_some (q : RumbleRequest) :
    queuedData (some q) = [nat1 q.pattern.val, nat1 q.priority.val, if q.origin = .console then 0 else 1] := by
  rw [queuedData, Origin.code_eq]

/-- The four places of the queue in a READ-RUMBLE answer (R171). -/
theorem flatMap_queuedData (queue : List RumbleRequest) :
    ((List.range 4).flatMap fun k => queuedData queue[k]?) =
      queuedData queue[0]? ++ queuedData queue[1]? ++ queuedData queue[2]? ++ queuedData queue[3]? := by
  simp [List.range_succ]

/-- READ-RUMBLE answers the driver's fields, `place u k` being what it answers of place k of the queue. -/
theorem readRumble_reads {s : State} (h : s.Accepts) {place : State → Nat → List Byte}
    (hplace : ∀ u k, place u k = queuedData u.rumble.queue[k]?) :
    ServedAs .readRumble s fun u =>
      { u with
        rumble := { u.rumble with droppedCues := 0 }
        draws := if s.rumble.current.any CurrentRequest.started then s.draws else s.draws + 1 }.answer .ok
        ([if u.rumble.current = none then (0 : Byte) else if u.rumble.supplyLow = true then 2 else 1] ++
          currentData s.draws s.rumble.current ++
          [nat1 u.duty, nat1 u.rumble.ceiling, flag1 u.rumble.supplyLow, flag1 u.rumble.kick,
            nat1 u.rumble.strength, flag1 u.rumble.kickSetting, nat1 u.rumble.queue.length] ++
          ((List.range 4).flatMap fun k => place u k) ++ [nat1 u.rumble.droppedCues]) := by
  rw [ServedAs, exec_served h rfl]
  simp only [Rumble.state_code_eq, hplace, flatMap_queuedData, List.append_assoc, State.serving_rumble_current,
    State.serving_draws]

theorem currentData_started {c : CurrentRequest} {p : Playing} (hp : c.playing = some p) (draw : Nat) :
    currentData draw (some c) =
      [nat1 c.request.pattern.val, nat1 c.request.priority.val, if c.request.origin = .console then 0 else 1, 1,
        nat1 p.position, nat1 p.unitsLeft, p.plays.code] := by
  simp [currentData, CurrentRequest.started, hp, playingData, Origin.code_eq, flag1]

theorem currentData_waiting {c : CurrentRequest} (hp : c.playing = none) (draw : Nat) :
    currentData draw (some c) =
      [nat1 c.request.pattern.val, nat1 c.request.priority.val, if c.request.origin = .console then 0 else 1, 0,
        nat1 (Config.unstartedPosition draw).val, nat1 ((Config.unstartedUnits draw).val + 1),
        nat1 (Config.unstartedPlays draw).val] := by
  simp [currentData, CurrentRequest.started, hp, playingData, Origin.code_eq, flag1]

/-- Settles O54, request by request; READ-RUMBLE's free values lie in their ranges whatever they are. -/
theorem rumblePatternsAndSettings : Obligations.RumblePatternsAndSettings := by
  refine ⟨fun pattern count repeats s h => ⟨loadPattern_refused h, ?_⟩, fun s h => stopRumble_stops h,
    fun strength kick s h => ⟨setRumble_refused h, fun hkick u v => setRumble_sets h hkick⟩,
    fun s h => ⟨if s.rumble.current.any CurrentRequest.started then s.draws else s.draws + 1,
      currentData s.draws s.rumble.current, ?_, fun c p hc hp => ?_, fun c hc hp => ?_, fun hnone => ?_⟩⟩
  · intro p steps zeros queue ended hp hcount hrepeats hsteps hzeros hqueue hended
    have hbuffer : 2 * count.toNat ≤ s.window.buffer.items.length := by
      rw [s.window.buffer.size]
      omega
    refine loadPattern_loads h hp hcount hrepeats ?_ ?_ hqueue ?_
    · rw [stepsOf_eq hbuffer, ← filterMap_finRange_below _ hcount]
      exact hsteps
    · rw [zeroDurations_eq hbuffer]
      exact hzeros
    · rw [Rumble.playsPattern_eq]
      exact hended
  · refine readRumble_reads h fun u k => ?_
    split
    next q hq => rw [hq, queuedData_of_some]
    next hnone => rw [hnone, queuedData]
  · rw [hc, currentData_started hp]
    cases p.plays <;> rfl
  · refine ⟨_, _, _, ?_, ?_, ?_, ?_, (congrArg _ hc).trans (currentData_waiting hp _)⟩
    all_goals omega
  · rw [hnone]
    exact ⟨_, _, _, _, _, _, rfl⟩

end Sys2Proof.Machine

/-! DOZE and the fade before it (O60): the states that stand outside both, what frame events make of the condition, and
what every command keeps of it. -/

namespace Sys2Proof.Machine

open Sys2Proof

/-! ### No change opens in the fade or in DOZE (R20, R181) -/

/-- A fall of the keep supply opens no change and ends none. -/
theorem Store.faults_openCount (busy : Bool) (st : Store) (faults : List RetentionFault) :
    (faults.foldl (Store.fault busy) st).openCount = st.openCount := by
  induction faults generalizing st with
  | nil => rfl
  | cons f rest ih =>
    rw [List.foldl_cons, ih]
    obtain ⟨a, v, -, hf⟩ | hf | ⟨-, c, -, hf⟩ := Store.fault_cases busy st f <;> rw [hf]
    · rfl
    · have hshadows := congrArg (List.countP fun p : Nat × Option Shadow × Nat => p.2.1.isSome) (st.faultEntry_keeps c)
      rwa [List.countP_map, List.countP_map] at hshadows

/-- With no change open, a change opens only at the entry step of the OPEN-CHANGE in hand (R21). -/
theorem StoreStep.openCount_eq_zero {s t : State} {c : Instr} (h : StoreStep s t c) (hclosed : s.store.openCount = 0)
    (hwork : s.window.work = none ∨ s.window.work = some .quiesce) : t.store.openCount = 0 := by
  have hin {w : Work} (h : s.window.work = some w) : w = .quiesce := by
    rcases hwork with hnone | hsome
    · rw [hnone] at h
      cases h
    · rw [hsome] at h
      cases h
      rfl
  cases h with
  | kept _ g hcat hg => rw [Store.openCount_of_keeps hcat hg, hclosed]
  | held _ _ _ hcat => rw [Store.openCount, hcat]; exact hclosed
  | entered _ _ _ _ _ hcreate => cases hin hcreate
  | retired _ _ _ hcat =>
    rw [Store.openCount_eq_zero] at hclosed ⊢
    rw [hcat]
    exact fun e he => hclosed e (List.mem_of_mem_filter he)
  | verified _ _ _ hverify => cases hin hverify
  | opened _ _ _ _ hfill => cases hin hfill
  | closed _ g _ hcat hg =>
    rw [Store.openCount_eq_zero] at hclosed ⊢
    rw [hcat]
    intro x hx
    obtain ⟨e, he, rfl⟩ := List.mem_map.1 hx
    by_contra hopen
    have hsame := (hg e).isOpen (Option.isSome_iff_ne_none.2 hopen)
    rw [hsame] at hopen
    exact hopen (hclosed e he)
  | faulted faults _ hstore => rw [hstore, Store.faults_openCount, hclosed]
  | cleared _ hcat => simp [Store.openCount, hcat]

/-! ### Outside the fade and DOZE -/

/-- The part is in RUN with no QUIESCE in its fade, the quiet mark clear and no master volume saved. -/
structure State.Awake (s : State) : Prop where
  main : s.power.main = .run
  quiet : s.rumble.quiet = false
  saved : s.sound.savedMaster = none
  work : s.window.work ≠ some .quiesce

theorem State.Awake.dozeWf {s : State} (h : s.Awake) : s.DozeWf := by
  have hnot : ¬ s.Quieting := fun hq => hq.elim (by simp [h.main]) h.work
  refine ⟨fun hq => absurd hq hnot, by simp [h.main], by simp [h.quiet], by simp [h.saved], fun _ => h.main⟩

theorem State.Awake.kept {s t : State} (h : s.Awake) (hmain : t.power.main = s.power.main)
    (hquiet : t.rumble.quiet = s.rumble.quiet) (hsaved : t.sound.savedMaster = s.sound.savedMaster)
    (hwork : t.window.work ≠ some .quiesce) : t.Awake :=
  ⟨hmain.trans h.main, hquiet.trans h.quiet, hsaved.trans h.saved, hwork⟩

/-- In RUN the quiet mark is clear outside the fade alone. -/
theorem State.DozeWf.awake {s : State} (h : s.DozeWf) (hmain : s.power.main = .run) (hquiet : s.rumble.quiet = false) :
    s.Awake := by
  obtain ⟨hquieting, -, -, hsaved, -⟩ := h
  have hnot : ¬ s.Quieting := fun hq => by
    obtain ⟨-, -, hset, -⟩ := hquieting hq
    rw [hquiet] at hset
    cases hset
  refine ⟨hmain, hquiet, ?_, fun hw => hnot (.inr hw)⟩
  simpa using mt hsaved hnot

/-- With a request other than QUIESCE in hand the part is in RUN and in no fade. -/
theorem State.DozeWf.awake_of_work {s : State} (h : s.DozeWf) {w : Work} (hw : s.window.work = some w)
    (hne : w ≠ .quiesce) : s.Awake := by
  obtain ⟨-, -, hquiet, -, hwork⟩ := id h
  have hmain : s.power.main = .run := hwork (by simp [hw])
  refine h.awake hmain (Bool.eq_false_iff.2 fun hset => ?_)
  obtain hdoze | hfade := hquiet hset
  · rw [hmain] at hdoze
    cases hdoze
  · rw [hw] at hfade
    cases hfade
    exact hne rfl

/-- The completion of a request other than QUIESCE comes outside the fade and DOZE, and leaves the part there. -/
theorem State.DozeWf.completed {s t : State} (h : s.DozeWf) {w : Work} (hw : s.window.work = some w)
    (hne : w ≠ .quiesce) (hmain : t.power.main = s.power.main) (hquiet : t.rumble.quiet = s.rumble.quiet)
    (hsaved : t.sound.savedMaster = s.sound.savedMaster) (hwork : t.window.work ≠ some .quiesce) : t.DozeWf :=
  ((h.awake_of_work hw hne).kept hmain hquiet hsaved hwork).dozeWf

/-- A submit that is taken is served outside the fade and DOZE: a wake clears the quiet mark and the saved master
(R182). -/
theorem State.DozeWf.serving {s : State} (h : s.DozeWf) (ha : s.Accepts) (bytes : List Byte) :
    (s.wake.taken bytes).Awake := by
  obtain ⟨hmain, -, hwork⟩ := ha
  cases hm : s.power.main with
  | off => exact absurd hm hmain
  | run =>
    rw [State.wake_run hm]
    obtain ⟨-, -, hquiet, -⟩ := id h
    have hnot : ¬ s.Quieting := fun hq => hq.elim (by simp [hm]) (by simp [hwork])
    have hawake := h.awake hm (Bool.eq_false_iff.2 fun hset => hnot (hquiet hset))
    exact ⟨hawake.main, hawake.quiet, hawake.saved, hawake.work⟩
  | doze =>
    rw [State.wake_doze hm]
    exact ⟨rfl, rfl, rfl, by simp [hwork]⟩

/-! ### The shapes a command's effect takes -/

/-- The main blocks at their reset values, the main domain OFF or in RUN. -/
theorem State.dozeWf_of_cleared {t : State} (hmain : t.power.main ≠ .doze) (hwindow : t.window = .reset)
    (hsound : t.sound = .reset) (hrumble : t.rumble = .reset) : t.DozeWf := by
  simp [State.DozeWf, State.Quieting, hmain, hwindow, hsound, hrumble, Window.reset, Sound.reset, Rumble.reset]

/-- A QUIESCE in its fade: no change open, the driver STILL with its quiet mark set, the master volume saved. -/
theorem State.dozeWf_of_fade {t : State} (hmain : t.power.main = .run) (hwork : t.window.work = some .quiesce)
    (hclosed : t.store.openCount = 0) (hcurrent : t.rumble.current = none) (hquiet : t.rumble.quiet = true)
    (hsaved : t.sound.savedMaster.isSome = true) : t.DozeWf :=
  ⟨fun _ => ⟨hclosed, hcurrent, hquiet, hsaved⟩, by simp [hmain], fun _ => .inr hwork, fun _ => .inr hwork,
    fun _ => hmain⟩

/-- A command that leaves the main domain state, the request in hand, the sound engine and the driver as they are. -/
theorem exec_dozeWf_of_same {c : Instr} {s t : State} (hs : s.DozeWf) (h : exec c s = .next t)
    (hsame : t.power.main = s.power.main ∧ t.window.work = s.window.work ∧ t.sound = s.sound ∧ t.rumble = s.rumble) :
    t.DozeWf := by
  obtain ⟨hquieting, hdoze, hrest⟩ := hs
  obtain ⟨hmain, hwork, hsound, hrumble⟩ := hsame
  unfold State.DozeWf State.Quieting at *
  rw [hmain, hwork, hsound, hrumble]
  refine ⟨fun hq => ?_, hdoze, hrest⟩
  obtain ⟨hclosed, hstill⟩ := hquieting hq
  exact ⟨(exec_storeStep h).openCount_eq_zero hclosed (hq.imp_left fun hd => (hdoze hd).1), hstill⟩

/-- A submit keeps the condition when what the owning block does outside the fade and DOZE keeps it. -/
theorem submit_dozeWf {s : State} (hs : s.DozeWf) {bytes : List Byte} {act : Bool → State → State}
    (hact : ∀ woke u, u.Awake → (act woke u).DozeWf) : (submit bytes act s).DozeWf :=
  submit_cases (P := State.DozeWf) hs hs fun ha woke => hact woke _ (hs.serving ha bytes)

/-- A submit keeps the condition when the owning block leaves the part outside the fade and DOZE. -/
theorem submit_awake {s : State} (hs : s.DozeWf) {bytes : List Byte} {act : Bool → State → State}
    (hact : ∀ woke u, u.Awake → (act woke u).Awake) : (submit bytes act s).DozeWf :=
  submit_dozeWf hs fun woke u hu => (hact woke u hu).dozeWf

theorem State.Awake.answer {s : State} (h : s.Awake) (r : Result) (data : List Byte) : (s.answer r data).Awake :=
  h.kept rfl rfl rfl nofun

theorem State.Awake.holdWork {s : State} (h : s.Awake) {w : Work} (hw : w ≠ .quiesce) : (s.holdWork w).Awake :=
  h.kept rfl rfl rfl (by simpa using hw)

theorem State.onRecord_awake {u : State} (hu : u.Awake) {bad : Bool} {key : Half} {act : Entry → State}
    (hact : ∀ e, (act e).Awake) : (u.onRecord bad key act).Awake :=
  State.onRecord_cases (fun _ => hu.answer _ _) (fun _ _ => hu.answer _ _) fun _ e _ => hact e

theorem State.onCounter_awake {u : State} (hu : u.Awake) (bad : Bool) (key : Half) (index : Byte)
    (act : Counter → Result × Counter × Bool) : (u.onCounter bad key index act).Awake :=
  State.onCounter_cases (fun _ => hu.answer _ _) (fun _ _ => hu.answer _ _) (fun _ _ _ _ => hu.answer _ _)
    fun _ _ _ _ _ => hu.kept rfl rfl rfl nofun

theorem State.onSlot_awake {u : State} (hu : u.Awake) {bad : Bool} {slot : Byte} {act : Slot → Event → State}
    (hact : ∀ i e, (act i e).Awake) : (u.onSlot bad slot act).Awake :=
  State.onSlot_cases (hu.answer _ _) (hu.answer _ _) fun _ _ _ _ => hact _ _

theorem State.armRequest_awake {u : State} (hu : u.Awake) (tag : Half) (bad needsWall : Bool) (schedule : Schedule)
    (a : ActionBytes) : (u.armRequest tag bad needsWall schedule a).Awake :=
  State.armRequest_cases (fun _ => hu.answer _ _) fun slot _ _ => by
    obtain ⟨data, harm⟩ := u.arm_answers slot (armedEvent tag schedule a)
    rw [harm]
    exact hu.kept rfl rfl rfl nofun

/-! ### Sound ticks, frames and strobes (R138, R143, R153) -/

theorem State.frame_dozeWf {s : State} (h : s.DozeWf) : s.frame.DozeWf := h

/-- A sound tick lowers the master volume in a fade, in RUN alone (R138). -/
theorem State.soundTick_dozeWf {s : State} (h : s.DozeWf) (hrun : s.power.main = .run) : s.soundTick.DozeWf := by
  obtain ⟨hquieting, -, hquiet, hsaved, hwork⟩ := h
  have hkept : s.soundTick.sound.savedMaster = s.sound.savedMaster := by
    show (s.sound.progression.fadeStep s.fading).savedMaster = _
    unfold Sound.fadeStep
    split <;> rfl
  unfold State.DozeWf State.Quieting at *
  rw [hkept]
  exact ⟨hquieting, by simp [hrun], hquiet, hsaved, hwork⟩

theorem State.settleTick_dozeWf {s : State} (h : s.DozeWf) (hrun : s.power.main = .run) : s.settleTick.DozeWf := by
  unfold State.settleTick
  split
  · exact State.soundTick_dozeWf h hrun
  · exact h

theorem State.frameEvent_dozeWf {s : State} (h : s.DozeWf) : s.frameEvent.DozeWf := by
  simp only [State.frameEvent]
  split <;> exact h

theorem State.frameInstant_dozeWf {s : State} (h : s.DozeWf) : s.frameInstant.DozeWf := by
  unfold State.frameInstant
  split
  · exact State.frameEvent_dozeWf (State.settleTick_dozeWf h ‹_›)
  · exact h
  · exact h

theorem State.ownInstant_dozeWf {s : State} (h : s.DozeWf) (due : Instant) : (s.ownInstant due).DozeWf :=
  State.frameInstant_dozeWf h

theorem State.toOwnTiming_dozeWf {s : State} (h : s.DozeWf) (now : Instant) (after : Link) :
    (s.toOwnTiming now after).DozeWf := by
  unfold State.toOwnTiming
  split
  · split
    · exact State.ownInstant_dozeWf (s := { s with link := after }) h now
    · exact h
  · exact h

theorem State.setLink_dozeWf {s : State} (h : s.DozeWf) (mode : LinkMode) (format : SlotFormat) (offset : Fin 4)
    (now : Instant) : (s.setLink mode format offset now).DozeWf := by
  simp only [State.setLink]
  split
  · exact h
  · exact State.toOwnTiming_dozeWf h now _

theorem State.setLink_awake {s : State} (h : s.Awake) (mode : LinkMode) (format : SlotFormat) (offset : Fin 4)
    (now : Instant) : (s.setLink mode format offset now).Awake :=
  (State.setLink_dozeWf h.dozeWf mode format offset now).awake (by simpa using h.main) (by simpa using h.quiet)

theorem State.enterSlave_dozeWf {s : State} (h : s.DozeWf) (arrival : Instant) : (s.enterSlave arrival).DozeWf := by
  simp only [State.enterSlave]
  split
  · split
    · exact h
    · exact State.frameInstant_dozeWf h
  · exact State.frameInstant_dozeWf h

theorem State.strobeAlongside_dozeWf {s : State} (h : s.DozeWf) (elapsed : Nat) (arrival : Instant) :
    (s.strobeAlongside elapsed arrival).DozeWf := by
  unfold State.strobeAlongside
  split
  · exact h
  · exact h
  · split
    · exact h
    · exact State.enterSlave_dozeWf h arrival

theorem State.strobeInSlave_dozeWf {s : State} (h : s.DozeWf) (elapsed : Nat) (arrival : Instant) :
    (s.strobeInSlave elapsed arrival).DozeWf := by
  unfold State.strobeInSlave
  split
  · exact h
  · exact State.frameInstant_dozeWf h

/-! ### SOFT-RESET, readings, the driver's own events -/

/-- Sound engine and link take their parts of a SOFT-RESET in either order (R189; log 14). -/
theorem State.softResetSoundAndLink_dozeWf {s : State} (h : s.DozeWf) (now : Instant) :
    (s.softResetSoundAndLink now).DozeWf := by
  have hsoundFirst : (s.softResetSound.softResetLink now).DozeWf :=
    State.toOwnTiming_dozeWf (s := s.softResetSound) h now _
  have hlinkFirst : (s.softResetLink now).softResetSound.DozeWf := State.toOwnTiming_dozeWf h now _
  unfold State.softResetSoundAndLink
  split
  · split
    · exact hlinkFirst
    · exact hsoundFirst
  · exact hsoundFirst

theorem State.softReset_awake {s : State} (h : s.Awake) (now : Instant) : (s.softReset now).Awake := by
  have hparts := (State.softResetSoundAndLink_dozeWf h.dozeWf now).awake
  have hmain : (s.softResetSoundAndLink now).power.main = .run :=
    (congrArg Power.main (s.softReset_power now)).trans h.main
  have hawake := hparts hmain (by simpa using h.quiet)
  exact ⟨hmain, rfl, hawake.saved, hawake.work⟩

theorem State.takeReading_dozeWf {s : State} (h : s.DozeWf) (r : Reading) : (s.takeReading r).DozeWf := by
  obtain ⟨-, -, heq⟩ | ⟨-, -, heq⟩ | ⟨-, -, heq⟩ | ⟨-, -, heq⟩ := s.takeReading_cases r <;> rw [heq]
  · exact h
  · exact State.dozeWf_of_cleared (by simp) rfl rfl rfl
  · exact h
  · exact State.dozeWf_of_cleared (by simp) rfl rfl rfl

/-- What the driver does of its own, its quiet mark as before: while that mark is set nothing becomes current. -/
theorem State.DozeWf.withRumble {s : State} (h : s.DozeWf) {r : Rumble} (hquiet : r.quiet = s.rumble.quiet)
    (hcurrent : s.rumble.quiet = true → s.rumble.current = none → r.current = none) :
    State.DozeWf { s with rumble := r } := by
  obtain ⟨hquieting, hdoze, hset, hrest⟩ := h
  refine ⟨fun hq => ?_, hdoze, fun hr => hset (hquiet ▸ hr), hrest⟩
  obtain ⟨hclosed, hnone, hmark, hsaved⟩ := hquieting hq
  exact ⟨hclosed, hcurrent hmark hnone, hquiet.trans hmark, hsaved⟩

/-- A new request leaves the quiet mark as it is (R158, R172). -/
theorem Rumble.request_quietMark (r : Rumble) (q : RumbleRequest) : (r.request q).1.quiet = r.quiet := by
  have hlost (x : RumbleRequest) : (r.countLost x).quiet = r.quiet := by
    unfold Rumble.countLost
    split <;> rfl
  obtain ⟨-, -, h⟩ | ⟨-, h⟩ | ⟨-, ⟨-, h⟩ | ⟨c, -, ⟨-, h⟩ | ⟨-, -, h⟩ | ⟨-, -, ⟨last, -, -, h⟩ | h⟩⟩⟩ :=
    r.request_cases q <;> rw [h]
  · exact hlost last
  · exact hlost q

theorem Rumble.replace_passOn_quiet (r : Rumble) (i : Fin 16) (p : Pattern) (ended : Bool) :
    (if ended then (r.replace i p).passOn else r.replace i p).quiet = r.quiet := by
  rw [Rumble.replace_passOn_eq r i p ended rfl]

/-! ### Every command -/

/-- Every command keeps the condition: a request is served outside the fade and DOZE, the completion of a request other
than QUIESCE comes outside them, and of the other events only resets and power-going end them and FADE_COMPLETE alone
passes from the one to the other. -/
theorem exec_dozeWf {c : Instr} {s t : State} (hs : s.DozeWf) (h : exec c s = .next t) : t.DozeWf := by
  cases c
  case auditStep | tendAction | tendAnswer | secondEvent | retentionDoubtful | consoleResetRelease | overrun =>
    refine exec_dozeWf_of_same hs h ?_
    cases h
    repeat' split
    all_goals exact ⟨rfl, rfl, rfl, rfl⟩
  case windowWrite =>
    refine exec_dozeWf_of_same hs h ?_
    cases h
    split
    · exact ⟨rfl, Window.store_work _ _ _, rfl, rfl⟩
    · exact ⟨rfl, rfl, rfl, rfl⟩
  all_goals cases h
  case quiesce =>
    refine submit_dozeWf hs fun _ u hu => ?_
    split
    · exact (hu.answer _ _).dozeWf
    next hopen => exact State.dozeWf_of_fade hu.main rfl (by simpa using hopen) rfl rfl rfl
  case fadeComplete =>
    split
    next hfade =>
      simp only [State.fading, Bool.and_eq_true, beq_iff_eq] at hfade
      obtain ⟨⟨hwork, -⟩, hmaster⟩ := hfade
      obtain ⟨hquieting, -⟩ := hs
      exact ⟨fun _ => hquieting (.inr hwork), fun _ => ⟨rfl, hmaster⟩, fun _ => .inl rfl, fun _ => .inl rfl, nofun⟩
    · exact hs
  case entryStep =>
    split
    next hwork => exact hs.completed hwork nofun rfl rfl rfl nofun
    · exact hs
  case retireAnswer =>
    split
    next hwork =>
      split
      · exact hs
      · exact ((hs.awake_of_work hwork nofun).answer _ _).dozeWf
    · exact hs
  case openChangeEntry =>
    split
    next hwork =>
      split
      · exact hs.completed hwork nofun rfl rfl rfl nofun
      · exact hs
    · exact hs
  case verification =>
    split
    next hwork =>
      split
      · exact hs.completed hwork nofun rfl rfl rfl nofun
      · exact hs
    next hwork =>
      split
      · exact hs.completed hwork nofun rfl rfl rfl nofun
      · exact hs
    · exact hs
  case swapStage =>
    split
    next hwork =>
      split
      · exact hs.completed hwork nofun rfl rfl rfl nofun
      · exact hs
    next hwork => exact hs.completed hwork nofun rfl rfl rfl nofun
    · exact hs
  case softReset now => exact submit_awake hs fun _ u hu => (State.softReset_awake hu now).answer _ _
  case setLink =>
    refine submit_awake hs fun _ u hu => ?_
    split
    · split
      · exact hu.answer _ _
      · exact (State.setLink_awake hu _ _ _ _).answer _ _
    · exact hu.answer _ _
  case loadPattern =>
    refine submit_awake hs fun _ u hu => ?_
    split
    · split
      · exact hu.answer _ _
      · exact hu.kept rfl (Rumble.replace_passOn_quiet _ _ _ _) rfl nofun
    · exact hu.answer _ _
  case playPattern =>
    refine submit_awake hs fun _ u hu => ?_
    split
    · exact hu.kept rfl (u.rumble.request_quietMark _) rfl nofun
    · exact hu.answer _ _
  case cue =>
    split
    · exact hs
    · exact hs.withRumble (s.rumble.request_quietMark _) fun hquiet hnone =>
        (congrArg (fun p => p.1.current) (Rumble.request_quiet hquiet rfl)).trans hnone
  case rumbleUnit =>
    split
    · obtain ⟨-, -, -, hquiet, -⟩ := s.rumble.unit_keeps
      exact hs.withRumble hquiet fun _ hnone => by rw [Rumble.unit_of_none hnone]; exact hnone
    · exact hs
  case frameInstant =>
    split
    · split
      · exact State.ownInstant_dozeWf hs _
      · exact State.ownInstant_dozeWf hs _
      · exact hs
    · split <;> exact hs
  case fsiStrobe arrival =>
    split
    · split
      · exact hs
      · split
        · exact State.strobeInSlave_dozeWf hs _ arrival
        · exact State.strobeAlongside_dozeWf hs _ arrival
        · exact State.strobeAlongside_dozeWf hs _ arrival
    · exact hs
  case substitution =>
    split
    · split
      · exact State.frameInstant_dozeWf hs
      · exact hs
    · exact hs
  case soundTick =>
    split
    next htick =>
      rw [Bool.and_eq_true, beq_iff_eq] at htick
      exact State.soundTick_dozeWf hs htick.1
    · exact hs
  case minuteEvent =>
    split
    · exact hs
    · dsimp only
      split
      · exact hs
      · split
        · exact hs
        · exact State.takeReading_dozeWf (by exact hs) _
  case supplyReading | wakeEvent =>
    split
    · exact State.takeReading_dozeWf (by exact hs) _
    · exact hs
  case consoleReset =>
    dsimp only
    split
    · exact State.dozeWf_of_cleared (by simp) rfl rfl rfl
    · exact hs
  case keepDomainStop | cellReset => exact State.dozeWf_of_cleared nofun rfl rfl rfl
  case info => exact submit_awake hs fun _ _ hu => State.onRecord_awake hu fun _ => hu.answer _ _
  case readCounter | adjustCounter | setCounter | swapCounter | setBounds =>
    exact submit_awake hs fun _ _ hu => State.onCounter_awake hu _ _ _ _
  case eventInfo | cancelEvent | ackDue =>
    refine submit_awake hs fun _ u hu => State.onSlot_awake hu fun _ _ => ?_
    repeat' split
    all_goals exact hu.kept rfl rfl rfl nofun
  case armElapsed | armDaily | armWall => exact submit_awake hs fun _ _ hu => State.armRequest_awake hu _ _ _ _ _
  case retire | readPiece | closeChange | writePiece | abandonChange =>
    refine submit_awake hs fun _ u hu => State.onRecord_awake hu fun _ => ?_
    repeat' split
    all_goals exact hu.kept rfl rfl rfl nofun
  case unknown =>
    split
    · exact hs
    · exact submit_awake hs fun _ _ hu => hu.answer _ _
  case setWall | queueNotes =>
    refine submit_awake hs fun _ u hu => ?_
    dsimp only
    repeat' split
    all_goals exact hu.kept rfl rfl rfl nofun
  all_goals
    refine submit_awake hs fun _ u hu => ?_
    repeat' split
    all_goals exact hu.kept rfl rfl rfl nofun

/-- Settles O60: a command leaves the part outside the fade and DOZE, or leaves what DOZE rests on as it was, or is one
of the few that begin and end them. -/
theorem dozeWfKept : Obligations.DozeWfKept := fun _ _ hs h =>
  step_keeps (P := State.DozeWf) (fun _ _ => id) (fun _ _ _ => exec_dozeWf) hs h

end Sys2Proof.Machine

/-! QUIESCE by whether a change is open, and READ-POWER by whether its submit woke the part (O59). -/

namespace Sys2Proof.Machine

open Sys2Proof

section
variable {s : State} (h : s.Accepts)
include h

/-- QUIESCE is refused while a change is open (R181). -/
theorem quiesce_refused (hopen : 0 < s.store.openCount) : Answers .quiesce s .changesOpen [nat1 s.store.openCount] := by
  rw [Answers, ServedAs, exec_served h rfl, if_pos (by rwa [State.serving_store]), State.serving_store]

/-- QUIESCE with no change open begins the fade (R138, R172, R181). -/
theorem quiesce_fades (hclosed : s.store.openCount = 0) :
    ServedAs .quiesce s fun u =>
      { u with
        rumble := { u.rumble with current := none, queue := [], kick := false, quiet := true }
        sound := { u.sound with savedMaster := some u.sound.master } }.holdWork .quiesce := by
  rw [ServedAs, exec_served h rfl, if_neg (by rw [State.serving_store, hclosed]; exact Nat.lt_irrefl 0)]
  rfl

/-- Power control's fields as READ-POWER answers them: its own submit found the part in RUN, or woke it (R182, R183). -/
theorem readPower_answers :
    Answers .readPower s .ok
      (nat2 s.power.reading.console.toNat ++ nat2 s.power.reading.cell.toNat ++
        [1, if s.power.main = .doze then 1 else 0, 1, flag1 s.power.cellLow, flag1 s.power.retentionDoubtful,
          flag1 s.store.keepLost, nat1 s.store.changesLost]) := by
  rw [Answers, ServedAs, exec_served h rfl, State.serving_store]
  obtain ⟨hmain, -⟩ := h
  cases hm : s.power.main with
  | off => exact absurd hm hmain
  | run =>
    have hserving : (s.serving .readPower).power = s.power := by simp [State.serving, State.wake_run hm]
    simp [hserving, hm, State.mainUp, MainState.code, flag1]
  | doze =>
    have hserving : (s.serving .readPower).power = { s.power with main := .run } := by
      simp [State.serving, State.wake_doze hm]
    simp [hserving, State.mainUp, MainState.code, flag1]

end

/-- Settles O59: QUIESCE by whether a change is open, READ-POWER by whether its submit woke the part. -/
theorem quiesceAndReadPower : Obligations.QuiesceAndReadPower :=
  ⟨fun _ h => ⟨quiesce_refused h, quiesce_fades h⟩, fun _ h => readPower_answers h⟩

end Sys2Proof.Machine

/-! Supply readings, resets and the keep supply (O58): the blocks at a reading, the main reset and the power-going, and
what a fall of the keep supply changes. -/

namespace Sys2Proof.Machine

open Sys2Proof

/-! ### The main reset and power-going (R42, R176 to R178) -/

/-- The KEEP report of a cleared notice unit: pending with the details of the marks that are set (R42, R180, R194). -/
theorem Notices.reset_raiseKeepReport (keepLost changesLost doubtful : Bool) :
    Notices.reset.raiseKeepReport keepLost changesLost doubtful =
      { Notices.reset with
        keep :=
          { pending := keepLost || changesLost || doubtful, damageFound := false, keepLost := keepLost,
            changesLost := changesLost, retentionDoubtful := doubtful } } := by
  cases keepLost <;> cases changesLost <;> cases doubtful <;> rfl

/-- The store at a main reset: open changes abandoned and counted, the audit begun on the entries that are left (R37,
R41). -/
theorem Store.abandonAll_startAudit (st : Store) :
    st.abandonAll.startAudit =
      { st with
        catalog := st.catalog.map fun (e : Entry) => { e with shadow := none, audited := false }
        changesLost := min 4 (st.changesLost + st.openCount)
        auditFlag := !st.catalog.isEmpty
        auditPosition := 0 } := by
  simp only [Store.startAudit, Store.abandonAll, List.map_map, List.isEmpty_map]
  rfl

theorem State.mainReset_mainResetOf (s : State) : MainResetOf s s.mainReset := by
  rintro _ _ rfl rfl
  simp only [State.mainReset, Store.abandonAll_startAudit, Notices.reset_raiseKeepReport]
  rfl

theorem State.powerGoing_powerGoingOf (s : State) : PowerGoingOf s s.powerGoing := rfl

/-! ### A reading with the main domain up (R165, R168, R179) -/

@[simp] theorem Rumble.read_current (r : Rumble) (v : Nat) : (r.read v).current = r.current := rfl

/-- A reading halts the driver where a request is current and it sets the supply-low mark (R168). -/
theorem Rumble.read_halts (r : Rumble) (v : Nat) :
    (r.state == .running && (r.read v).state == .halted) =
      (r.current.isSome && !r.supplyLow && (r.read v).supplyLow) := by
  unfold Rumble.state
  rw [Rumble.read_current]
  cases r.current with
  | none => rfl
  | some c => cases r.supplyLow <;> cases (r.read v).supplyLow <;> rfl

/-- A reading resumes the driver where a request is current and it clears the supply-low mark (R168). -/
theorem Rumble.read_resumes (r : Rumble) (v : Nat) :
    (r.state == .halted && (r.read v).state == .running) =
      (r.current.isSome && r.supplyLow && !(r.read v).supplyLow) := by
  unfold Rumble.state
  rw [Rumble.read_current]
  cases r.current with
  | none => rfl
  | some c => cases r.supplyLow <;> cases (r.read v).supplyLow <;> rfl

/-- A current request is halted or resumed where the supply-low mark changes. -/
theorem halted_or_resumed (current before after : Bool) :
    (current && !before && after || current && before && !after) = (current && before != after) := by
  cases current <;> cases before <;> cases after <;> rfl

/-- The POWER cause with a reading's details: "cell low", then "rumble halted" or "rumble resumed" (R168, R179). -/
theorem Notices.raise_reading (n : Notices) (low halted resumed : Bool) :
    ((n.raiseIf low raiseCellLow).raiseIf halted raiseHalted).raiseIf resumed raiseResumed =
      { n with
        power :=
          { pending := n.power.pending || low || (halted || resumed)
            halted := n.power.halted || halted
            resumed := n.power.resumed || resumed
            cellLow := n.power.cellLow || low } } := by
  cases low <;> cases halted <;> cases resumed <;> simp [Notices.raiseIf, raiseCellLow, raiseHalted, raiseResumed]

/-- The part after a reading with the main domain up, before any power-going (R165, R168, R175, R179). -/
theorem State.takeReading_up {s : State} {reading : Reading} (hup : s.power.main ≠ .off) {low : Bool}
    (hlow : low = cellLowAfter s.power.cellLow reading.cell.toNat) {r : Rumble}
    (hr : r = s.rumble.read reading.console.toNat) {v : State}
    (hv : v = { s with
      power := { s.power with reading := reading, cellLow := low, firstReading := false }
      rumble := r
      notices :=
        { s.notices with
          power :=
            { pending :=
                s.notices.power.pending || (low && (!s.power.cellLow || s.power.firstReading)) ||
                  (s.rumble.current.isSome && s.rumble.supplyLow != r.supplyLow)
              cellLow := s.notices.power.cellLow || (low && (!s.power.cellLow || s.power.firstReading))
              halted := s.notices.power.halted || (s.rumble.current.isSome && !s.rumble.supplyLow && r.supplyLow)
              resumed :=
                s.notices.power.resumed || (s.rumble.current.isSome && s.rumble.supplyLow && !r.supplyLow) } } }) :
    s.takeReading reading = if reading.console.toNat < 2700 then v.powerGoing else v := by
  subst hlow hr hv
  rw [State.takeReading, if_pos (State.mainUp_eq_true hup)]
  simp only [State.readingUp, State.rumbleReading, Rumble.read_halts, Rumble.read_resumes, Notices.raise_reading,
    halted_or_resumed]
  rfl

/-! ### A reading with the main domain OFF (R175, R176) -/

theorem State.takeReading_off {s : State} {reading : Reading} (hoff : s.power.main = .off) :
    s.takeReading reading =
      if 2900 ≤ reading.console.toNat then { s with power := s.power.take reading }.mainReset
      else { s with power := s.power.take reading } := by
  rw [State.takeReading, if_neg (by simp [State.mainUp, hoff])]
  rfl

/-! ### Wake events and the reset line (R175, R178) -/

theorem execWakeEvent_off {s : State} {reading : Reading} (hruns : s.power.keepRuns = true)
    (hoff : s.power.main = .off) :
    exec (.wakeEvent reading) s =
      exec (.supplyReading reading)
        { s with
          calendar := { s.calendar with minuteReadingTaken := decide (0 < s.calendar.minutesHanded) } } := by
  rw [execSupplyReading_eq (by exact hruns)]
  simp [exec, execWakeEvent, hruns, State.mainUp, hoff]

theorem execWakeEvent_up {s : State} {reading : Reading} (hup : s.power.main ≠ .off) :
    exec (.wakeEvent reading) s = .next s := by
  simp [exec, execWakeEvent, State.mainUp, hup]

theorem execConsoleReset_up {s : State} (hup : s.power.main ≠ .off) :
    exec .consoleReset s = .next (State.mainReset { s with power := { s.power with resetHeld := true } }) := by
  simp [exec, execConsoleReset, State.mainUp, hup]

theorem execConsoleReset_off {s : State} (hoff : s.power.main = .off) :
    exec .consoleReset s = .next { s with power := { s.power with resetHeld := true } } := by
  simp [exec, execConsoleReset, State.mainUp, hoff]

/-! ### A fall of the keep supply (R180; log 15) -/

theorem execRetentionDoubtful_eq {s : State} (hruns : s.power.keepRuns = true) (faults : List RetentionFault) :
    exec (.retentionDoubtful faults) s =
      .next { s with
        power := { s.power with retentionDoubtful := true }
        store := faults.foldl (Store.fault s.window.busy) s.store } := by
  simp [exec, execRetentionDoubtful, hruns]

/-- What is left of an entry the catalog can hold is entered under its key, which names one entry alone (R3, R180). -/
theorem Store.faultEntry_eq {st : Store} (hst : st.Wf) {f : CatalogFault} {e : Entry}
    (he : st.find f.key.toNat = some e) (hf : e.canFault st f = true) :
    st.faultEntry f = st.withEntry f.key.toNat fun x => x.faulted f := by
  obtain ⟨hsorted, -⟩ := hst
  have hcat : st.catalog.map (fun x => if x.key = f.key.toNat ∧ x.canFault st f = true then x.faulted f else x) =
      st.catalog.map fun x => if x.key = f.key.toNat then x.faulted f else x := by
    refine List.map_congr_left fun x hx => if_congr (and_iff_left_of_imp fun hkey => ?_) rfl rfl
    have hsame : e = x := Option.some.inj (he.symm.trans ((Store.find_iff hsorted).2 ⟨hx, hkey⟩))
    exact hsame ▸ hf
  simp only [Store.faultEntry, Store.withEntry, hcat]

/-- A fall as it is stated (R1, R180): the bytes and entries it names, and nothing else. -/
theorem execRetentionDoubtful_changes {s : State} (hruns : s.power.keepRuns = true) (hm : s.MemoryWf)
    (faults : List RetentionFault) :
    ∃ (memory : Memory) (catalog : List Entry),
      exec (.retentionDoubtful faults) s =
        .next { s with
          power := { s.power with retentionDoubtful := true }
          store := { s.store with memory := memory, catalog := catalog } } ∧
      (∀ a, Memory.read memory a =
        (faults.reverse.findSome? fun f =>
          match f with
          | .byte address value => if address.toNat = a then some value else none
          | .entry _ => none).getD (Memory.read s.store.memory a)) ∧
      catalog.map Entry.key = s.store.catalog.map Entry.key ∧
      (s.window.work ≠ none → catalog = s.store.catalog) ∧
      ∀ e ∈ s.store.catalog, (∀ f, RetentionFault.entry f ∈ faults → f.key.toNat ≠ e.key) → e ∈ catalog := by
  obtain ⟨memory, catalog, hfall⟩ := Store.faults_frame s.window.busy s.store faults
  have hmemory : (faults.foldl (Store.fault s.window.busy) s.store).memory = memory := congrArg Store.memory hfall
  have hcatalog : (faults.foldl (Store.fault s.window.busy) s.store).catalog = catalog := congrArg Store.catalog hfall
  refine ⟨memory, catalog, ?_, fun a => ?_, ?_, fun hwork => ?_, fun e he hnot => ?_⟩
  · rw [execRetentionDoubtful_eq hruns, hfall]
  · rw [← hmemory]
    exact Store.faults_read _ hm faults a
  · rw [← hcatalog, Store.faults_keys]
  · rw [← hcatalog, (Window.busy_iff _).2 hwork, Store.faults_busy_catalog]
  · rw [← hcatalog]
    exact Store.faults_other _ he hnot

theorem execRetentionDoubtful_cons {s t : State} {f : RetentionFault} {rest : List RetentionFault}
    (hruns : s.power.keepRuns = true) (h : exec (.retentionDoubtful [f]) s = .next t) :
    exec (.retentionDoubtful (f :: rest)) s = exec (.retentionDoubtful rest) t := by
  rw [execRetentionDoubtful_eq hruns] at h
  cases h
  rw [execRetentionDoubtful_eq hruns, execRetentionDoubtful_eq (by exact hruns)]
  rfl

/-- A fall that leaves of a LIVE record an entry the catalog can hold (R1, R3, R4, R43, R180). -/
theorem execRetentionDoubtful_entry {s : State} {f : CatalogFault} {e : Entry} (hruns : s.power.keepRuns = true)
    (hwork : s.window.work = none) (hs : s.store.Wf) (he : s.store.find f.key.toNat = some e)
    (hf : e.canFault s.store f = true) :
    exec (.retentionDoubtful [.entry f]) s =
      .next { s with
        power := { s.power with retentionDoubtful := true }
        store := s.store.withEntry f.key.toNat fun x => x.faulted f } := by
  have hbusy : s.window.busy = false := by simp [Window.busy, hwork]
  rw [execRetentionDoubtful_eq hruns, hbusy, ← Store.faultEntry_eq hs he hf]
  rfl

/-! ### The readings and events together -/

/-- Settles O58: each event by the state of the main domain it finds, a fall by what it names. -/
theorem supplyReadingsAndPowerEvents : Obligations.SupplyReadingsAndPowerEvents := by
  refine ⟨fun s reading low hruns hlow => ?_, fun s reading hruns => ?_, fun s => ?_, fun s faults hruns hm => ?_,
    fun s => ⟨rfl, rfl⟩⟩
  · have htake : s.power.take reading = { s.power with reading := reading, cellLow := low } := by rw [hlow]; rfl
    rw [execSupplyReading_eq hruns]
    refine ⟨fun hoff hbelow => ?_, fun hoff hstart => ?_, fun hup ceiling supplyLow v hceiling hsupply hv => ?_⟩
    · rw [State.takeReading_off hoff, if_neg (by omega), htake]
    · rw [State.takeReading_off hoff, if_pos hstart, htake]
      exact ⟨_, rfl, State.mainReset_mainResetOf _⟩
    · have hr : { s.rumble with ceiling := ceiling, supplyLow := supplyLow } = s.rumble.read reading.console.toNat := by
        rw [hceiling, hsupply]
        rfl
      rw [State.takeReading_up hup hlow hr hv]
      refine ⟨fun hstays => by rw [if_neg (by omega)], fun hgoing => ?_⟩
      rw [if_pos hgoing]
      exact ⟨_, rfl, State.powerGoing_powerGoingOf v⟩
  · exact ⟨execWakeEvent_off hruns, execWakeEvent_up⟩
  · exact ⟨fun hup => ⟨_, execConsoleReset_up hup, State.mainReset_mainResetOf _⟩, execConsoleReset_off, rfl⟩
  · refine ⟨execRetentionDoubtful_changes hruns hm faults, ?_, ?_⟩
    · rintro f rest t rfl h
      exact execRetentionDoubtful_cons hruns h
    · rintro f e rfl hwork ⟨hst, -⟩ he ⟨hlive, hlength, hblocks, hnodup, hfree, hcount, hbounds⟩
      refine execRetentionDoubtful_entry hruns hwork hst he (Entry.canFault_iff.2 ?_)
      have hunused := fun b hb => (hfree b hb).imp_right Store.mem_freeBlocks.1
      exact ⟨hlive, hlength, hblocks, hnodup, hunused, hcount, hbounds⟩

end Sys2Proof.Machine

/-! The command window (O1, O4 to O8): a step, the submits that are not served and the state a taken one is served in,
what the console reads and where its writes go, IDENTIFY and READ-STATUS. -/

namespace Sys2Proof.Machine

open Sys2Proof

/-- Settles O1: the two cases of the queue. -/
theorem stepExecutesFrontCommand : Obligations.StepExecutesFrontCommand :=
  ⟨fun c rest s hqueue => by rw [step, hqueue], fun s hqueue => by rw [step, hqueue]⟩

/-! ### Submits that are not served (R178, R184, R185) -/

/-- The code of a well-formed UNKNOWN names no request, so UNKNOWN is a submit like the requests (R185). -/
theorem execUnknown_eq {code : Byte} (hcode : code ∉ requestCodes) (s : State) :
    execUnknown code s = .next (submit (requestBytes (.unknown code)) (fun _ u => u.answer .unknown []) s) := by
  rw [execUnknown, if_neg (by simpa using hcode)]

/-- A well-formed command that lays bytes in the request area is a submit of them: every other constructor lays none. -/
theorem exec_eq_submit {c : Instr} (hbytes : requestBytes c ≠ []) (hwf : c.wellFormed = true) (s : State) :
    ∃ act, exec c s = .next (submit (requestBytes c) act s) := by
  cases c with
  | overrun | windowWrite | entryStep | retireAnswer | openChangeEntry | verification | swapStage | auditStep
  | tendAction | tendAnswer | secondEvent | minuteEvent | cue | frameInstant | fsiStrobe | substitution | soundTick
  | fadeComplete | rumbleUnit | supplyReading | wakeEvent | consoleReset | consoleResetRelease | retentionDoubtful
  | keepDomainStop | cellReset => exact absurd rfl hbytes
  | unknown code => exact ⟨_, execUnknown_eq (by simpa [Instr.wellFormed] using hwf) s⟩
  | _ => exact ⟨_, rfl⟩

theorem State.windowLive_eq_false {s : State} (h : s.power.main = .off ∨ s.power.resetHeld = true) :
    s.windowLive = false := by
  rw [← Bool.not_eq_true, State.windowLive_iff]
  rintro ⟨hup, hreleased⟩
  exact h.elim hup fun hheld => absurd (hreleased.symm.trans hheld) (by decide)

theorem execOverrun_busy {s : State} (hlive : s.windowLive = true) (hwork : s.window.work ≠ none) :
    execOverrun s = .next { s with window := { s.window with overrun := true } } := by
  rw [execOverrun, if_pos (by rw [hlive, (Window.busy_iff _).2 hwork]; rfl)]

/-- Settles O4: a request is one submit, which a dead or BUSY window refuses; OVERRUN and UNKNOWN by their own
conditions. -/
theorem submitsNotServed : Obligations.SubmitsNotServed := by
  refine ⟨fun c s hbytes hwf => ?_, fun s hup hreleased hwork => ?_, fun code s h hcode => ?_⟩
  · obtain ⟨act, hexec⟩ := exec_eq_submit hbytes hwf s
    refine ⟨fun hdead => ?_, fun hup hreleased hwork => ?_⟩
    · rw [hexec, submit_dead (State.windowLive_eq_false hdead)]
    · rw [hexec, submit_busy ((State.windowLive_iff s).2 ⟨hup, hreleased⟩) hwork]
  · exact execOverrun_busy ((State.windowLive_iff s).2 ⟨hup, hreleased⟩) hwork
  · exact exec_served (c := .unknown code) h (execUnknown_eq hcode s)

/-! ### The state a taken submit is served in (R182, R185) -/

@[simp] theorem State.serving_notices (c : Instr) (s : State) : (s.serving c).notices = s.notices := by
  simp [State.serving]

theorem State.wake_power {s : State} (h : s.power.main ≠ .off) : s.wake.power = { s.power with main := .run } := by
  unfold State.wake
  split
  · rfl
  · rw [← ‹s.power.main = .run›]
  · exact absurd ‹_› h

theorem State.serving_power {s : State} (h : s.Accepts) (c : Instr) :
    (s.serving c).power = { s.power with main := .run } := State.wake_power h.1

theorem State.wake_sound (s : State) :
    s.wake.sound =
      if s.power.main = .doze then
        { s.sound with master := s.sound.savedMaster.getD s.sound.master, savedMaster := none }
      else s.sound := by
  unfold State.wake
  split <;> simp [*]

theorem State.wake_rumble (s : State) :
    s.wake.rumble = if s.power.main = .doze then { s.rumble with quiet := false } else s.rumble := by
  unfold State.wake
  split <;> simp [*]

/-- Settles O5: the wake writes power, sound and rumble, the taking of the submit the window, and neither the rest. -/
theorem submitIsTakenInRun : Obligations.SubmitIsTakenInRun := by
  intro c s h hlength
  have hrequest : (s.serving c).window.request.items =
      requestBytes c ++ s.window.request.items.drop (requestBytes c).length := by
    show overlay s.wake.window.request.items 0 (requestBytes c) = _
    rw [State.wake_window, overlay_zero (by rwa [s.window.request.size])]
  have hwork : (s.serving c).window.work = none := by
    obtain ⟨-, -, hwork⟩ := h
    rw [State.serving, State.taken_work, State.wake_window, hwork]
  exact ⟨State.serving_power h c, s.wake_sound, s.wake_rumble, hrequest, Table.get_fill _, rfl,
    State.serving_buffer c s, hwork, State.serving_calendar c s, State.serving_engine c s, State.serving_store c s,
    State.serving_notices c s, State.serving_link c s, s.wake_pending⟩

/-! ### Bytes laid over an area -/

/-- Bytes laid from a place on stand there in order; every other place keeps its byte. -/
theorem getElem_overlay {old bytes : List Byte} {start i : Nat} (h : i < old.length) :
    (overlay old start bytes)[i]'(by rwa [overlay_length]) =
      if start ≤ i then (bytes[i - start]?).getD old[i] else old[i] := by
  fun_induction overlay old start bytes generalizing i with
  | case1 => simp at h
  | case2 old rest start bytes ih =>
    cases i with
    | zero => simp [overlay]
    | succ i => simp [overlay, ih (Nat.lt_of_succ_lt_succ h)]
  | case3 => simp [overlay]
  | case4 old rest b bytes ih =>
    cases i with
    | zero => simp [overlay]
    | succ i => simp [overlay, ih (Nat.lt_of_succ_lt_succ h)]

theorem Area.get_lay {n : Nat} (t : Table Byte n) (start : Nat) (bytes : List Byte) (i : Fin n) :
    (Area.lay t start bytes).get i = if start ≤ i.val then (bytes[i.val - start]?).getD (t.get i) else t.get i :=
  getElem_overlay (t.size.symm ▸ i.isLt)

theorem Area.get_lay_singleton {n : Nat} (t : Table Byte n) (start : Nat) (b : Byte) (i : Fin n) :
    (Area.lay t start [b]).get i = if start = i.val then b else t.get i := by
  rw [Area.get_lay]
  obtain hbelow | rfl | habove := Nat.lt_trichotomy start i.val
  · have hpast : ([b] : List Byte)[i.val - start]? = none := List.getElem?_eq_none (by simp; omega)
    rw [if_pos hbelow.le, if_neg hbelow.ne, hpast, Option.getD_none]
  · simp
  · rw [if_neg (by omega), if_neg habove.ne']

/-- Bytes laid over an area of zeros from its first place on. -/
theorem Area.get_lay_zeros {n : Nat} (bytes : List Byte) (i : Fin n) :
    (Area.lay (Table.fill n 0) 0 bytes).get i = (bytes[i.val]?).getD 0 := by
  rw [Area.get_lay, if_pos (Nat.zero_le _), Table.get_fill, Nat.sub_zero]

/-! ### The status byte (R184, 11.4) -/

theorem WindowState.code_eq (w : Window) :
    w.state.code = if w.work ≠ none then 1 else if w.answered = true then 2 else 0 := by
  unfold Window.state Window.busy
  cases w.work <;> cases w.answered <;> rfl

theorem State.statusByte_state (s : State) : s.statusByte.extractLsb' 6 2 = s.window.state.code :=
  BitVec.extractLsb'_append_eq_left

/-- The bit between two parts of a word. -/
theorem getLsbD_append_ofBool_append {m n : Nat} (x : BitVec m) (b : Bool) (y : BitVec n) :
    (x ++ (BitVec.ofBool b ++ y)).getLsbD n = b := by
  rw [BitVec.getLsbD_append, if_pos (by omega), BitVec.getLsbD_append, if_neg (Nat.lt_irrefl n), Nat.sub_self]
  cases b <;> rfl

theorem State.statusByte_overrun (s : State) : s.statusByte.getLsbD 5 = s.window.overrun :=
  getLsbD_append_ofBool_append _ _ _

theorem State.statusByte_audit (s : State) : s.statusByte.getLsbD 4 = s.store.auditFlag := by
  rw [State.statusByte, BitVec.getLsbD_append, if_pos (by decide)]
  exact getLsbD_append_ofBool_append _ _ _

theorem State.statusByte_pending (s : State) : s.statusByte.getLsbD 3 = (s.pendingMask != 0) := by
  rw [State.statusByte, BitVec.getLsbD_append, if_pos (by decide), BitVec.getLsbD_append, if_pos (by decide)]
  exact getLsbD_append_ofBool_append _ _ _

theorem State.statusByte_cause (s : State) :
    s.statusByte.extractLsb' 0 3 = BitVec.ofNat 3 (highestCause s.pendingMask - 1) := by
  rw [State.statusByte, BitVec.extractLsb'_append_eq_of_add_le (by decide),
    BitVec.extractLsb'_append_eq_of_add_le (by decide), BitVec.extractLsb'_append_eq_of_add_le (by decide),
    BitVec.extractLsb'_append_eq_right]

theorem highestCause_zero : highestCause 0 = 0 := rfl

/-- The highest pending cause is the lowest-numbered one (R190). -/
theorem highestCause_of_lowest {mask : Byte} {n : Fin 8} (hn : mask.getLsbD n.val = true)
    (hbelow : ∀ m : Fin 8, m < n → mask.getLsbD m.val = false) : highestCause mask = n.val + 1 := by
  simp only [Fin.forall_fin_succ, Fin.forall_fin_zero] at hbelow
  unfold highestCause
  fin_cases n <;> simp_all

/-! ### Reads of the window (R184; log 26) -/

section
variable {s : State} {o : BitVec 7}

theorem State.windowRead_off (h : s.power.main = .off) (o : BitVec 7) : s.windowRead o = none := by
  rw [State.windowRead, State.mainUp_eq_false h]
  rfl

variable (h : s.power.main ≠ .off)
include h

theorem State.windowRead_zero : s.windowRead 0 = some s.statusByte := by
  rw [State.windowRead, State.mainUp_eq_true h]
  rfl

/-- Above offset 0 a read finds the area its offset stands in, the areas behind an answer only while not BUSY. -/
theorem State.windowRead_area (ho : 1 ≤ o.toNat) :
    s.windowRead o =
      if o.toNat < 32 then some 0
      else if s.window.busy = true then some 0
      else if o.toNat < 64 then some (Area.byteAt s.window.answer (o.toNat - 32))
      else some (Area.byteAt s.window.buffer (o.toNat - 64)) := by
  rw [State.windowRead, State.mainUp_eq_true h, if_neg (by decide), if_neg (by omega)]

theorem State.windowRead_request (ho : 1 ≤ o.toNat) (hlow : o.toNat < 32) : s.windowRead o = some 0 := by
  rw [State.windowRead_area h ho, if_pos hlow]

theorem State.windowRead_busy (ho : 1 ≤ o.toNat) (hwork : s.window.work ≠ none) : s.windowRead o = some 0 := by
  rw [State.windowRead_area h ho, if_pos ((Window.busy_iff _).2 hwork), ite_self]

variable (hwork : s.window.work = none)
include hwork

theorem State.windowRead_answer {i : Fin 32} (ho : o.toNat = 32 + i.val) :
    s.windowRead o = some (s.window.answer.get i) := by
  have hfree : ¬ s.window.busy = true := by simp [Window.busy_iff, hwork]
  rw [State.windowRead_area h (by omega), if_neg (by omega), if_neg hfree, if_pos (by omega), ho,
    Nat.add_sub_cancel_left, Area.byteAt_eq]

theorem State.windowRead_buffer {i : Fin 64} (ho : o.toNat = 64 + i.val) :
    s.windowRead o = some (s.window.buffer.get i) := by
  have hfree : ¬ s.window.busy = true := by simp [Window.busy_iff, hwork]
  rw [State.windowRead_area h (by omega), if_neg (by omega), if_neg hfree, if_neg (by omega), ho,
    Nat.add_sub_cancel_left, Area.byteAt_eq]

end

/-! ### An answer and a filled buffer as the console reads them (R185, 11.4) -/

/-- The answer area after an answer: the result code at its first place, then the data, then zeros. -/
theorem State.answer_get (s : State) (r : Result) (data : List Byte) (i : Fin 32) :
    (s.answer r data).window.answer.get i = ((r.code :: data)[i.val]?).getD 0 := Area.get_lay_zeros _ i

theorem State.answer_windowRead_code {s : State} (h : s.power.main ≠ .off) (r : Result) (data : List Byte) :
    (s.answer r data).windowRead 32 = some r.code :=
  State.windowRead_answer (s := s.answer r data) (i := 0) h rfl rfl

theorem State.answer_windowRead_data {s : State} (h : s.power.main ≠ .off) (r : Result) (data : List Byte) {j : Nat}
    (hj : j < 31) : (s.answer r data).windowRead (BitVec.ofNat 7 (33 + j)) = some ((data[j]?).getD 0) := by
  have hoffset : (BitVec.ofNat 7 (33 + j)).toNat = 32 + (j + 1) := by
    rw [BitVec.toNat_ofNat]
    omega
  rw [State.windowRead_answer (s := s.answer r data) (i := ⟨j + 1, by omega⟩) h rfl hoffset, State.answer_get,
    List.getElem?_cons_succ]

theorem Window.fillBuffer_get (w : Window) (bytes : List Byte) (i : Fin 64) :
    (w.fillBuffer bytes).buffer.get i = (bytes[i.val]?).getD 0 := Area.get_lay_zeros bytes i

/-- Settles O6: reads by offset, the fields of the status byte, an answer as placed, the result codes, a filled
buffer. -/
theorem windowAsTheConsoleReadsIt : Obligations.WindowAsTheConsoleReadsIt := by
  refine ⟨fun s o => ⟨fun hoff => State.windowRead_off hoff o, fun h => ⟨State.windowRead_zero h,
      State.windowRead_request h, fun ho => State.windowRead_busy h (by omega),
      fun i hwork => State.windowRead_answer h hwork, fun i hwork => State.windowRead_buffer h hwork⟩, ?_,
      s.statusByte_overrun, s.statusByte_audit, by rw [s.statusByte_pending, bne_iff_ne],
      fun n hn hbelow => ?_, fun hnone => ?_⟩,
    fun s r data h hlength => ⟨State.answer_windowRead_code h r data, fun j hj => ?_, fun j hj hlast => ?_, ?_⟩, rfl,
    fun w bytes => ⟨⟨_, rfl⟩, fun i => ⟨fun hi => ?_, fun hi => ?_⟩⟩⟩
  · rw [State.statusByte_state, WindowState.code_eq]
  · rw [State.statusByte_cause, highestCause_of_lowest hn hbelow, Nat.add_sub_cancel]
  · rw [State.statusByte_cause, hnone, highestCause_zero]
    rfl
  · rw [State.answer_windowRead_data h r data (by omega), List.getElem?_eq_getElem hj, Option.getD_some]
  · rw [State.answer_windowRead_data h r data hlast, List.getElem?_eq_none hj, Option.getD_none]
  · rw [State.statusByte_state, WindowState.code_eq]
    rfl
  · rw [Window.fillBuffer_get, List.getElem?_eq_getElem hi, Option.getD_some]
  · rw [Window.fillBuffer_get, List.getElem?_eq_none hi, Option.getD_none]

/-! ### Writes of the window (R184, R186) -/

theorem State.accepts_iff (s : State) : s.Accepts ↔ s.windowLive = true ∧ s.window.busy = false := by
  rw [State.windowLive_iff, ← Bool.not_eq_true s.window.busy, Window.busy_iff, not_not, and_assoc]

theorem execWindowWrite_eq (offset : BitVec 7) (value : Byte) {s : State} (hoffset : offset ≠ 0) :
    execWindowWrite offset value s =
      .next (if s.Accepts then { s with window := s.window.store offset.toNat value } else s) := by
  simp only [execWindowWrite, State.accepts_iff, Bool.and_eq_true, Bool.not_eq_true', bne_iff_ne, hoffset, ne_eq,
    not_false_eq_true, and_true]

/-- A write changes the request area or the transfer buffer and nothing else of the window. -/
theorem Window.store_keeps (w : Window) (offset : Nat) (value : Byte) :
    (w.store offset value).answer = w.answer ∧ (w.store offset value).work = w.work ∧
      (w.store offset value).answered = w.answered ∧ (w.store offset value).overrun = w.overrun := by
  unfold Window.store
  split
  · exact ⟨rfl, rfl, rfl, rfl⟩
  · split <;> exact ⟨rfl, rfl, rfl, rfl⟩

theorem Window.store_request_get (w : Window) {offset : Nat} (hoffset : 1 ≤ offset) (value : Byte) (i : Fin 31) :
    (w.store offset value).request.get i = if offset = i.val + 1 then value else w.request.get i := by
  unfold Window.store
  by_cases hrequest : offset < 32
  · have hplace : offset - 1 = i.val ↔ offset = i.val + 1 := Nat.sub_eq_iff_eq_add hoffset
    simp only [if_pos hrequest, Area.get_lay_singleton, hplace]
  · rw [if_neg hrequest, if_neg (by omega : ¬ offset = i.val + 1)]
    split <;> rfl

theorem Window.store_buffer_get (w : Window) (offset : Nat) (value : Byte) (i : Fin 64) :
    (w.store offset value).buffer.get i = if offset = i.val + 64 then value else w.buffer.get i := by
  unfold Window.store
  by_cases hbuffer : offset < 64
  · rw [if_pos hbuffer, if_neg (by omega : ¬ offset = i.val + 64)]
    split <;> rfl
  · have hplace : offset - 64 = i.val ↔ offset = i.val + 64 := Nat.sub_eq_iff_eq_add (Nat.not_lt.1 hbuffer)
    simp only [if_neg (by omega : ¬ offset < 32), if_neg hbuffer, Area.get_lay_singleton, hplace]

/-- Settles O7: a window that takes a submit takes the write, and no other does. -/
theorem windowWriteStoresOneByte : Obligations.WindowWriteStoresOneByte := by
  intro offset value s hoffset
  have hpos : 1 ≤ offset.toNat := Nat.pos_of_ne_zero fun hzero => hoffset (BitVec.eq_of_toNat_eq hzero)
  refine ⟨fun h => ⟨s.window.store offset.toNat value, ?_, s.window.store_request_get hpos value,
    s.window.store_buffer_get offset.toNat value, s.window.store_keeps offset.toNat value⟩, fun h => ?_⟩
  · exact (execWindowWrite_eq offset value hoffset).trans (by rw [if_pos h])
  · exact (execWindowWrite_eq offset value hoffset).trans (by rw [if_neg h])

/-! ### IDENTIFY and READ-STATUS (R187, R188) -/

/-- Settles O8: each request's own answer, in the state in which it is served. -/
theorem identityAndStatus : Obligations.IdentityAndStatus := by
  refine ⟨fun s h => exec_served (c := .identify) h rfl,
    fun s h => ⟨nat1 (highestCause (s.serving .readStatus).pendingMask), ?_, fun hnone => ?_, fun n hn hbelow => ?_⟩⟩
  · have hserved := exec_served (c := .readStatus) h rfl
    rwa [State.serving_notices, State.serving_store, State.serving_engine] at hserved
  · rw [hnone, highestCause_zero]
    rfl
  · rw [highestCause_of_lowest hn hbelow]
    rfl

end Sys2Proof.Machine

/-! The notices (O9, O10): the pending causes and the line, the detail block, and the requests on the notice unit. -/

namespace Sys2Proof.Machine

open Sys2Proof

/-! ### Bits of a byte -/

theorem getLsbD_bits (b0 b1 b2 b3 b4 b5 b6 b7 : Bool) (i : Nat) :
    (bits b0 b1 b2 b3 b4 b5 b6 b7).getLsbD i = [b0, b1, b2, b3, b4, b5, b6, b7].getD i false :=
  BitVec.getLsbD_ofBoolListLE

/-- A detail byte of a cause as a number: at most four details, in bits 0 to 3 (11.4). -/
theorem bits_eq_ofNat (b0 b1 b2 b3 : Bool) :
    bits b0 b1 b2 b3 false false false false =
      BitVec.ofNat 8 (b0.toNat + 2 * b1.toNat + 4 * b2.toNat + 8 * b3.toNat) := by
  revert b0 b1 b2 b3
  decide

theorem byte_ne_zero_iff {b : Byte} : b ≠ 0 ↔ ∃ n : Fin 8, b.getLsbD n.val = true := by
  constructor
  · intro hb
    by_contra! hnone
    exact hb (BitVec.eq_of_getLsbD_eq fun i hi => by simpa using hnone ⟨i, hi⟩)
  · rintro ⟨n, hn⟩ rfl
    simp at hn

/-! ### Pending causes and the line (R104, R119, R190, R191) -/

theorem Voice.wantsRefill_iff (v : Voice) :
    v.wantsRefill = true ↔ (v.state = .playing ∨ v.state = .starved) ∧ 0 < v.refill ∧ v.queue.length < v.refill := by
  simp [Voice.wantsRefill, and_assoc]

theorem Sound.getLsbD_refillMask (so : Sound) (v : VoiceNo) :
    so.refillMask.getLsbD v.val = true ↔
      ((so.voices.get v).state = .playing ∨ (so.voices.get v).state = .starved) ∧
        0 < (so.voices.get v).refill ∧ (so.voices.get v).queue.length < (so.voices.get v).refill := by
  rw [Sound.refillMask, getLsbD_maskOf, Voice.wantsRefill_iff]

/-- While the window takes writes the line is low exactly when a pending cause is enabled (R191). -/
theorem State.noticeLine_eq (s : State) :
    s.noticeLine = (s.windowLive && (s.pendingMask &&& s.notices.enable != 0)) := rfl

theorem State.noticeLine_withEnable {u : State} (hlive : u.windowLive = true) (mask : Byte) :
    State.noticeLine { u with notices := { u.notices with enable := mask } } = (u.pendingMask &&& mask != 0) :=
  (congrArg (· && (u.pendingMask &&& mask != 0)) hlive).trans (Bool.true_and _)

/-- Settles O9: the mask bit by bit, and the line by a bit that pending and enable mask share. -/
theorem causesAndTheNoticeLine : Obligations.CausesAndTheNoticeLine := by
  refine ⟨fun s => ⟨getLsbD_bits .., getLsbD_bits .., getLsbD_bits .., getLsbD_bits .., ?_, ?_, ?_, getLsbD_bits ..⟩,
    fun s => ?_⟩
  · rw [State.pendingMask, getLsbD_bits]
    exact decide_eq_true_iff
  · rw [State.pendingMask, getLsbD_bits]
    show (s.sound.refillMask != 0) = true ↔ _
    simp only [bne_iff_ne, byte_ne_zero_iff, Sound.getLsbD_refillMask]
  · rw [State.pendingMask, getLsbD_bits]
    show (s.sound.markers.length != 0) = true ↔ _
    simp
  · simp only [State.noticeLine_eq, Bool.and_eq_true, State.windowLive_iff, bne_iff_ne, byte_ne_zero_iff,
      BitVec.getLsbD_and, and_assoc]

/-! ### Acknowledging (R193) -/

/-- An acknowledgement clears the causes of its mask, and for KEEP the marks its details report. -/
theorem State.acknowledge_eq (u : State) (cleared : Byte) :
    u.acknowledge cleared =
      { u with
        notices := u.notices.clear cleared
        store := if cleared.getLsbD 1 then { u.store with changesLost := 0, keepLost := false } else u.store
        power := if cleared.getLsbD 1 then { u.power with retentionDoubtful := false } else u.power } := by
  unfold State.acknowledge
  cases cleared.getLsbD 1 <;> simp

/-! ### The requests on the notice unit (R191 to R193) -/

theorem State.serving_windowLive {s : State} (h : s.Accepts) (c : Instr) : (s.serving c).windowLive = true := by
  rw [State.windowLive_iff, State.serving_power h]
  obtain ⟨-, hreleased, -⟩ := h
  exact ⟨nofun, hreleased⟩

/-- Settles O10: the detail block, and the three requests each in the state in which it is served. -/
theorem noticeRequests : Obligations.NoticeRequests := by
  refine ⟨fun s mask refill hrefill => ?_, fun s h => ?_, fun mask s h => ?_, ?_⟩
  · have hmask : refill = s.sound.refillMask :=
      eq_maskOf fun v => Bool.eq_iff_iff.2 ((hrefill v).trans (Voice.wantsRefill_iff _).symm)
    rw [State.detailBlock, bits_eq_ofNat, bits_eq_ofNat, bits_eq_ofNat, bits_eq_ofNat, ← hmask]
    rfl
  · have hserved := exec_served (c := .readNotices) h rfl
    rwa [State.serving_notices] at hserved
  · rw [ServedAs, exec_served h rfl]
    dsimp only
    rw [State.noticeLine_withEnable (State.serving_windowLive h _)]
    rfl
  · rintro mask s cleared u v h rfl rfl rfl
    refine (exec_served (c := .ackNotice mask) h rfl).trans ?_
    dsimp only
    rw [State.acknowledge_eq]
    rfl

end Sys2Proof.Machine

/-! SOFT-RESET (O11): the link's return to its own timing, and the parts taken together. -/

namespace Sys2Proof.Machine

open Sys2Proof

/-! ### The change of source (R150) -/

section
variable {s : State} {now reference : Instant} (after : Link)

/-- Out of SLAVE the own timing runs on. -/
theorem State.toOwnTiming_alongside (h : s.link.state ≠ .slave ∨ s.link.reference = none) :
    s.toOwnTiming now after = { s with link := after } := by
  unfold State.toOwnTiming
  split
  next r hslave hreference => exact h.elim (absurd hslave) fun hnone => nomatch hnone.symm.trans hreference
  next => rfl

variable (hslave : s.link.state = .slave) (hreference : s.link.reference = some reference)
include hslave hreference

/-- From SLAVE the own timing begins one period after the reference instant. -/
theorem State.toOwnTiming_ahead (hnow : now ≤ reference + 15625) :
    s.toOwnTiming now after = { s with link := { after with ownNext := reference + 15625 } } := by
  rw [State.toOwnTiming, hslave, hreference]
  exact if_neg (Nat.not_lt.2 hnow)

/-- When that instant has passed, the own timing makes its first frame instant at the step. -/
theorem State.toOwnTiming_passed (hnow : reference + 15625 < now) :
    s.toOwnTiming now after = { s with link := { after with ownNext := now } }.ownInstant now := by
  rw [State.toOwnTiming, hslave, hreference]
  exact if_pos hnow

end

/-! ### The link's part (R154) -/

theorem Link.softReset_eq (l : Link) :
    l.softReset =
      { l with
        state := if l.mode = .follow then .seeking else .master
        slips := 0, goodRun := 0, substitutionRun := 0, reference := none } := by
  unfold Link.softReset
  cases l.mode <;> rfl

theorem Link.softReset_state_ne_slave (l : Link) : l.softReset.state ≠ .slave := by
  rw [Link.softReset_eq]
  dsimp only
  split <;> exact nofun

/-- A SOFT-RESET makes a frame instant only from SLAVE, once the own timing's first instant has passed. -/
theorem Link.softResetFrame_iff (l : Link) (now : Instant) :
    l.softResetFrame now = true ↔ l.state = .slave ∧ ∃ r, l.reference = some r ∧ r + 15625 < now := by
  rw [Link.softResetFrame, Bool.and_eq_true, beq_iff_eq, Option.any_eq_true]
  simp only [decide_eq_true_eq]
  rfl

/-! ### Sound engine and link together (R126, R154, R189; log 14) -/

section
variable {s : State} {now reference : Instant}

theorem State.softResetSoundAndLink_no_frame (h : s.link.softResetFrame now = false) :
    s.softResetSoundAndLink now = s.softResetSound.softResetLink now := by
  rw [State.softResetSoundAndLink, h]
  rfl

theorem State.softResetSoundAndLink_alongside (h : s.link.state ≠ .slave ∨ s.link.reference = none) :
    s.softResetSoundAndLink now = { s with sound := s.sound.softReset, link := s.link.softReset } := by
  have hnone : s.link.softResetFrame now = false := by
    rw [← Bool.not_eq_true, Link.softResetFrame_iff]
    rintro ⟨hslave, r, hreference, -⟩
    exact h.elim (absurd hslave) fun hnone => nomatch hnone.symm.trans hreference
  rw [State.softResetSoundAndLink_no_frame hnone]
  exact State.toOwnTiming_alongside (s := s.softResetSound) _ h

variable (hslave : s.link.state = .slave) (hreference : s.link.reference = some reference)
include hslave hreference

theorem State.softResetSoundAndLink_ahead (hnow : now ≤ reference + 15625) :
    s.softResetSoundAndLink now =
      { s with sound := s.sound.softReset, link := { s.link.softReset with ownNext := reference + 15625 } } := by
  have hnone : s.link.softResetFrame now = false := by
    rw [← Bool.not_eq_true, Link.softResetFrame_iff]
    rintro ⟨-, r, hr, hpassed⟩
    cases hreference.symm.trans hr
    exact absurd hpassed (Nat.not_lt.2 hnow)
  rw [State.softResetSoundAndLink_no_frame hnone]
  exact State.toOwnTiming_ahead (s := s.softResetSound) _ hslave hreference hnow

/-- A frame instant made at the step stands before or after the voices' rest, by the free choice of R189. -/
theorem State.softResetSoundAndLink_passed (hnow : reference + 15625 < now) :
    ∃ draws : Nat,
      s.softResetSoundAndLink now =
          { ({ s with link := { s.link.softReset with ownNext := now } }.ownInstant now).softResetSound with
            draws := draws } ∨
        s.softResetSoundAndLink now =
          { { s with sound := s.sound.softReset, link := { s.link.softReset with ownNext := now } }.ownInstant now with
            draws := draws } := by
  have hframe : s.link.softResetFrame now = true := (Link.softResetFrame_iff _ _).2 ⟨hslave, _, hreference, hnow⟩
  refine ⟨s.draws + 1, ?_⟩
  rw [State.softResetSoundAndLink, if_pos hframe]
  cases Config.softResetLinkFirst s.draws with
  | true =>
    have hlink := State.toOwnTiming_passed s.link.softReset hslave hreference hnow
    exact .inl (congrArg (fun t : State => { t.softResetSound with draws := s.draws + 1 }) hlink)
  | false =>
    have hlink := State.toOwnTiming_passed (s := s.softResetSound) s.link.softReset hslave hreference hnow
    exact .inr (congrArg (fun t : State => { t with draws := s.draws + 1 }) hlink)

end

/-! ### SOFT-RESET (R189) -/

/-- A SOFT-RESET that is taken: the parts of sound engine and link, then the driver's, then the answer. -/
theorem execSoftReset_served {now : Instant} {s t : State} (h : s.Accepts)
    (hparts : (s.serving (.softReset now)).softResetSoundAndLink now = t) :
    exec (.softReset now) s =
      .next (State.answer
        { t with rumble := { t.rumble with current := none, queue := [], kick := false, quiet := false } } .ok []) := by
  rw [exec_served h rfl, ← hparts]
  rfl

/-- Settles O11: from SEEKING or MASTER; from SLAVE ahead of the own timing's first instant; and past it, where the
frame instant made at the step is that of FRAME_INSTANT. -/
theorem softResetRests : Obligations.SoftResetRests := by
  intro now s u rested linked stilled h hu hrested hlinked hstilled
  obtain rfl : rested = Sound.softReset := funext hrested
  obtain rfl : linked = u.link.softReset := hlinked.trans (Link.softReset_eq _).symm
  have hserved {t : State} (hparts : u.softResetSoundAndLink now = t) :
      exec (.softReset now) s = .next ((stilled t).answer .ok []) := by
    rw [hstilled]
    exact execSoftReset_served h (hu ▸ hparts)
  have hlink : u.link = s.link := by rw [hu, State.serving_link]
  have hup : u.power.main ≠ .off := hu ▸ State.serving_main_ne_off h _
  have hown := u.link.softReset_state_ne_slave
  rw [← hlink]
  refine ⟨fun hstate => hserved (State.softResetSoundAndLink_alongside hstate), fun r hslave hreference =>
    ⟨fun hahead => hserved (State.softResetSoundAndLink_ahead hslave hreference hahead), fun hpassed => ?_⟩⟩
  obtain ⟨draws, hlinkFirst | hsoundFirst⟩ := State.softResetSoundAndLink_passed hslave hreference hpassed
  · exact ⟨_, draws, .inl ⟨execFrameInstant_own hup hown, hserved hlinkFirst⟩⟩
  · exact ⟨_, draws, .inr ⟨execFrameInstant_own hup hown, hserved hsoundFirst⟩⟩

end Sys2Proof.Machine

/-! The canonical form of keep memory (O24): a command leaves keep memory as it stands, writes a payload, carries a
fall of the keep supply, or clears it at a cell reset. -/

namespace Sys2Proof.Machine

open Sys2Proof

/-- The commands that write bytes into memory blocks. -/
def Instr.writesPayload : Instr → Bool
  | .create .. => true
  | .openChange .. => true
  | .verification => true
  | .writePiece .. => true
  | _ => false

/-- Everything a command can do to keep memory. -/
inductive MemoryStep (s t : State) (c : Instr) : Prop where
  | same (hmem : t.store.memory = s.store.memory)
  | written (hc : Instr.writesPayload c = true) (blocks : List Block) (i : Nat) (bytes : List Byte)
      (hmem : t.store.memory = writePayload s.store.memory blocks i bytes)
  | faulted (faults : List RetentionFault) (hc : c = .retentionDoubtful faults)
      (hstore : t.store = faults.foldl (Store.fault s.window.busy) s.store)
  | cleared (hc : c = .cellReset) (hstore : t.store = .reset)

/-- No effect of a command on keep memory breaks the canonical form. -/
theorem MemoryStep.memoryWf {s t : State} {c : Instr} (h : MemoryStep s t c) (hs : s.MemoryWf) : t.MemoryWf := by
  unfold State.MemoryWf
  cases h with
  | same hmem => exact hmem ▸ hs
  | written _ blocks i bytes hmem => exact hmem ▸ writePayload_wf hs blocks i bytes
  | faulted faults _ hstore => exact hstore ▸ Store.faults_memory_wf hs s.window.busy faults
  | cleared _ hstore => exact hstore ▸ Memory.wf_nil

/-! ### Operations of the store that leave keep memory alone -/

@[simp] theorem Store.swap_memory (st : Store) (checks : List (Nat × Half)) : (st.swap checks).memory = st.memory := by
  induction checks generalizing st with
  | nil => rfl
  | cons c rest ih => exact ih _

@[simp] theorem Store.tend_memory (st : Store) (a : TendAction) : (st.tend a).1.memory = st.memory := by
  obtain ⟨_, htend⟩ | ⟨_, _, htend⟩ := st.tend_cases a <;> rw [htend]
  rfl

/-! ### The shapes a command's effect on keep memory takes -/

section
variable {s t u : State} {c : Instr}

theorem MemoryStep.standing (hu : u.store = s.store) (hmem : t.store.memory = u.store.memory) : MemoryStep s t c :=
  .same (hmem.trans (congrArg Store.memory hu))

theorem MemoryStep.of_store (hu : u.store = s.store) : MemoryStep s u c := .standing hu rfl

theorem MemoryStep.writtenFrom (hc : Instr.writesPayload c = true) (hu : u.store.memory = s.store.memory)
    {blocks : List Block} {i : Nat} {bytes : List Byte}
    (hmem : t.store.memory = writePayload u.store.memory blocks i bytes) : MemoryStep s t c :=
  .written hc blocks i bytes (hu ▸ hmem)

/-- A submit: keep memory stands, or the owning block acts on the store as it stands. -/
theorem submit_memoryStep {bytes : List Byte} {act : Bool → State → State}
    (hact : ∀ woke u, u.store = s.store → MemoryStep s (act woke u) c) : MemoryStep s (submit bytes act s) c :=
  submit_cases (P := fun t => MemoryStep s t c) (.same rfl) (.same rfl) fun _ woke => hact woke _ (by simp)

theorem State.onRecord_memoryStep {bad : Bool} {key : Half} {act : Entry → State} (hu : u.store = s.store)
    (hact : ∀ e, MemoryStep s (act e) c) : MemoryStep s (u.onRecord bad key act) c :=
  State.onRecord_cases (P := fun t => MemoryStep s t c) (fun _ => .of_store hu) (fun _ _ => .of_store hu)
    fun _ e _ => hact e

/-- A counter request changes catalog entries alone. -/
theorem State.onCounter_memoryStep (hu : u.store = s.store) (bad : Bool) (key : Half) (index : Byte)
    (act : Counter → Result × Counter × Bool) : MemoryStep s (u.onCounter bad key index act) c :=
  State.onCounter_cases (P := fun t => MemoryStep s t c) (fun _ => .of_store hu) (fun _ _ => .of_store hu)
    (fun _ _ _ _ => .of_store hu) fun _ _ _ _ _ => .standing hu rfl

/-- A reading abandons open changes and starts the audit at most. -/
theorem State.takeReading_memoryStep (hu : u.store = s.store) (r : Reading) : MemoryStep s (u.takeReading r) c := by
  have hmem : u.store.memory = s.store.memory := congrArg Store.memory hu
  obtain ⟨_, _, h⟩ | ⟨_, _, h⟩ | ⟨_, _, h⟩ | ⟨_, _, h⟩ := u.takeReading_cases r <;> rw [h]
  all_goals exact .same hmem

/-- The fill stage of an OPEN-CHANGE writes a payload. -/
theorem State.fillOpen_memoryStep (hc : Instr.writesPayload c = true) (hmem : u.store.memory = s.store.memory)
    (e : Entry) (newLength : Nat) (copyIn : Bool) : MemoryStep s (u.fillOpen e newLength copyIn) c :=
  .writtenFrom hc hmem rfl

end

/-! ### Commands that write a payload -/

section
variable {s t : State}

theorem execCreate_memoryStep {key length : Half} {fill count : Byte} {c0 c1 c2 c3 : CounterSpec}
    (h : exec (.create key length fill count c0 c1 c2 c3) s = .next t) :
    MemoryStep s t (.create key length fill count c0 c1 c2 c3) := by
  cases h
  refine submit_memoryStep fun _ u hu => ?_
  split
  · exact .of_store hu
  · exact .writtenFrom rfl (congrArg Store.memory hu) rfl

theorem execOpenChange_memoryStep {key newLength : Half} {copyIn : Byte}
    (h : exec (.openChange key newLength copyIn) s = .next t) : MemoryStep s t (.openChange key newLength copyIn) := by
  cases h
  refine submit_memoryStep fun _ u hu => ?_
  split
  · exact .of_store hu
  · exact .of_store hu
  · split
    · exact .of_store hu
    · exact State.fillOpen_memoryStep rfl (congrArg Store.memory hu) _ _ _

theorem execVerification_memoryStep (h : exec .verification s = .next t) : MemoryStep s t .verification := by
  cases h
  split
  · split
    · exact State.fillOpen_memoryStep (s := s) rfl (by rfl) _ _ _
    · exact .same rfl
  · split
    · exact .same rfl
    · exact .same rfl
  · exact .same rfl

theorem execWritePiece_memoryStep {key offset : Half} {count : Byte}
    (h : exec (.writePiece key offset count) s = .next t) : MemoryStep s t (.writePiece key offset count) := by
  cases h
  refine submit_memoryStep fun _ u hu => State.onRecord_memoryStep hu fun e => ?_
  split
  · exact .of_store hu
  · split
    · exact .of_store hu
    · exact .writtenFrom rfl (congrArg Store.memory hu) rfl

end

/-! ### Commands that change the catalog or the store's marks alone -/

section
variable {s t : State}

theorem execEntryStep_memoryStep (h : exec .entryStep s = .next t) : MemoryStep s t .entryStep := by
  cases h
  split
  · exact .same rfl
  · exact .same rfl

theorem execRetire_memoryStep {key : Half} (h : exec (.retire key) s = .next t) : MemoryStep s t (.retire key) := by
  cases h
  refine submit_memoryStep fun _ u hu => State.onRecord_memoryStep hu fun e => ?_
  split
  · exact .of_store hu
  · exact .standing hu rfl

theorem execOpenChangeEntry_memoryStep (h : exec .openChangeEntry s = .next t) : MemoryStep s t .openChangeEntry := by
  cases h
  split
  · split
    · exact .same rfl
    · exact .same rfl
  · exact .same rfl

theorem execSwapStage_memoryStep (h : exec .swapStage s = .next t) : MemoryStep s t .swapStage := by
  cases h
  split
  · split
    · exact .same (Store.swap_memory _ _)
    · exact .same rfl
  · exact .same (Store.swap_memory _ _)
  · exact .same rfl

theorem execAbandonChange_memoryStep {key : Half} (h : exec (.abandonChange key) s = .next t) :
    MemoryStep s t (.abandonChange key) := by
  cases h
  refine submit_memoryStep fun _ u hu => State.onRecord_memoryStep hu fun e => ?_
  split
  · exact .of_store hu
  · exact .standing hu rfl

theorem execAuditStep_memoryStep (h : exec .auditStep s = .next t) : MemoryStep s t .auditStep := by
  cases h
  split
  · split
    · split
      · exact .same rfl
      · exact .same rfl
    · exact .same rfl
  · exact .same rfl

theorem execTendAction_memoryStep (h : exec .tendAction s = .next t) : MemoryStep s t .tendAction := by
  cases h
  split
  · exact .same (Store.tend_memory _ _)
  · exact .same rfl
  · exact .same rfl

theorem execMinuteEvent_memoryStep {r : Reading} (h : exec (.minuteEvent r) s = .next t) :
    MemoryStep s t (.minuteEvent r) := by
  cases h
  split
  · exact .same rfl
  · dsimp only
    split
    · exact .same rfl
    · split
      · exact .same rfl
      · exact State.takeReading_memoryStep (by rfl) _

end

/-! ### Every command -/

/-- Every command's effect on keep memory is one of `MemoryStep`'s. -/
theorem exec_memoryStep {c : Instr} {s t : State} (h : exec c s = .next t) : MemoryStep s t c := by
  cases c
  case create => exact execCreate_memoryStep h
  case openChange => exact execOpenChange_memoryStep h
  case verification => exact execVerification_memoryStep h
  case writePiece => exact execWritePiece_memoryStep h
  case entryStep => exact execEntryStep_memoryStep h
  case retire => exact execRetire_memoryStep h
  case openChangeEntry => exact execOpenChangeEntry_memoryStep h
  case swapStage => exact execSwapStage_memoryStep h
  case abandonChange => exact execAbandonChange_memoryStep h
  case auditStep => exact execAuditStep_memoryStep h
  case readCounter | adjustCounter | setCounter | swapCounter | setBounds =>
    cases h
    exact submit_memoryStep fun _ _ hu => State.onCounter_memoryStep hu _ _ _ _
  case tendAction => exact execTendAction_memoryStep h
  case ackNotice =>
    cases h
    exact submit_memoryStep fun _ _ hu => .standing hu rfl
  case minuteEvent => exact execMinuteEvent_memoryStep h
  case supplyReading | wakeEvent =>
    cases h
    split
    · exact State.takeReading_memoryStep (by rfl) _
    · exact .same rfl
  case consoleReset =>
    cases h
    dsimp only
    split
    · exact .same rfl
    · exact .same rfl
  case retentionDoubtful faults =>
    cases h
    split
    · exact .faulted faults rfl rfl
    · exact .same rfl
  case cellReset =>
    cases h
    exact .cleared rfl rfl
  all_goals exact .of_store (exec_keeps_store rfl h)

/-- Settles O24: every command's effect on keep memory is one of `MemoryStep`'s, and each keeps the canonical form. -/
theorem memoryWfKept : Obligations.MemoryWfKept := fun _ _ hs h =>
  step_keeps (P := State.MemoryWf) (fun _ _ => id) (fun _ _ _ hs h => (exec_memoryStep h).memoryWf hs) hs h

end Sys2Proof.Machine
